-- ==== Sys2Proof/Word.lean ====
section
/-! DEFINITION. The bit-vector types of the block (R6, R8): bytes, request words, register addresses. -/

namespace Sys2Proof

/-- A bus or register byte, `DATA_W` = 8 bits (R6). The codec's u8 and i8 outputs have this width too (R8). -/
abbrev Byte := BitVec 8

/-- A request word, `REQ_W` = 16 bits (R6, R67). The codec's u16 and i16 outputs have this width too (R8). -/
abbrev Word := BitVec 16

/-- A sensor register address, `ADDR_W` = 5 bits (R6, R35). -/
abbrev Addr := BitVec 5

end Sys2Proof
end

