-- ==== Sys2Proof/Config.lean ====
section
/-! DEFINITION. The implementation parameters of R6 and the free values. A constant without a body (`opaque`) is
left open by the spec: nothing can be proved of its value. -/

namespace Sys2Proof

/-- MODE's two values (R17): the packet layout the block decodes. 0 = Absolute, 1 = Relative. -/
inductive Mode where
  | absolute
  | relative
  deriving DecidableEq, Repr, Inhabited

/-- MODE as the 1-bit latch of R17. -/
def Mode.bit : Mode → BitVec 1
  | .absolute => 0#1
  | .relative => 1#1

/-- A value of the transport's error type `E` (R6: "any type; the block passes values through uninterpreted").
DESIGN CHOICE (log 4): codes, so that a state can be written out and compared; the block never looks inside. -/
structure BusError where
  code : Nat
  deriving DecidableEq, Repr, Inhabited

/-- The transport's answer to one step of a transaction (R27, R46): the step completed, with the bytes received
in it, or it failed with an error. Which bytes count, and what stands for bytes not listed, says
`Machine.receiveBytes`. -/
inductive Answer where
  | done (received : List Byte)
  | fail (e : BusError)
  deriving DecidableEq, Repr, Inhabited

namespace Config

/-- `MAX_BLOCK` (R6): the largest block read and the receive buffer's size. The spec's default (log 3). -/
def maxBlock : Nat := 32

/-- `T_SETTLE` (R6): the wait of a delayed write, in microseconds, a lower bound (R139; log 16). -/
def tSettle : Nat := 50

/-- `T_RESET_SETTLE` (R6, R132): OPEN; a host duty before the first request (log 17). -/
opaque tResetSettle : Nat

/-- `STATUS_DR_MASK` (R6, R59): OPEN; the data-ready bit of the status byte, used by host programs only (log 17). -/
opaque statusDrMask : Byte

/-- `MODE_INIT` (R6, R33): given at construction, "there is no default" (log 1). -/
opaque modeInit : Mode

/-- FREE VALUE (R27; log 5): what the transport answers to its n-th bus step where no answer is given as input. -/
opaque freeAnswer : Nat → Answer

/-- FREE VALUE (R27, R42; log 6): the k-th byte received in the n-th bus step where the answer does not list it. -/
opaque freeByte : Nat → Nat → Byte

end Config
end Sys2Proof
end

