-- ==== Sys2Proof/Syntax.lean ====
section
/-! DEFINITION. The instructions: one constructor per row of spec/opcode_table.json, the codes they are read from,
the named registers, and the refusal reasons. -/

namespace Sys2Proof

/-- One row of the opcode table each: the eight requests (R69) and the four wire bytes (R73, R74). -/
inductive Instr where
  /-- RD1 a: read one register (R89). -/
  | rd1 (a : Addr)
  /-- RDN a, N: read a block of N registers (R90). -/
  | rdn (a : Addr) (n : Byte)
  /-- WR a, v: write one register (R91). -/
  | wr (a : Addr) (v : Byte)
  /-- WRD a, v: write one register, then wait the settle time (R92). -/
  | wrd (a : Addr) (v : Byte)
  /-- DECABS: decode the receive buffer as an absolute sample (R108). -/
  | decabs
  /-- DECREL: decode the receive buffer as a relative sample (R109). -/
  | decrel
  /-- SAMPLE.ABS: read, decode and clear status, Absolute mode (R110). -/
  | sampleAbs
  /-- SAMPLE.REL: read, decode and clear status, Relative mode (R111). -/
  | sampleRel
  /-- CMD_WRITE: the wire byte 100aaaaa (R73). -/
  | cmdWrite (a : Addr)
  /-- CMD_READ: the wire byte 101aaaaa (R73). -/
  | cmdRead (a : Addr)
  /-- CONT: the wire byte 0xFC (R74). -/
  | cont
  /-- FILL: the wire byte 0xFB (R74). -/
  | fill
  deriving DecidableEq, Repr

/-- What an instruction is read from: a request word (R67), or one byte of a captured frame (R86). -/
inductive Code where
  | request (w : Word)
  | wire (b : Byte)
  deriving DecidableEq, Repr

/-- The refusal reasons of R118. -/
inductive Reason where
  | reservedField
  | unlistedAddress
  | badLength
  | modeMismatch
  | unwrittenBuffer
  deriving DecidableEq, Repr

/-- The code of a refusal reason (R118). -/
def Reason.code : Reason → Nat
  | .reservedField => 1
  | .unlistedAddress => 2
  | .badLength => 3
  | .modeMismatch => 4
  | .unwrittenBuffer => 5

/-! The register address map (R36), under the names of R84. -/
namespace Reg
def id : Addr := 0x00#5
def fwver : Addr := 0x01#5
def status : Addr := 0x02#5
def syscfg : Addr := 0x03#5
def feed1 : Addr := 0x04#5
def feed2 : Addr := 0x05#5
def calcfg : Addr := 0x07#5
def srate : Addr := 0x09#5
def zidle : Addr := 0x0A#5
def zscaler : Addr := 0x0B#5
def slpint : Addr := 0x0C#5
def slptmr : Addr := 0x0D#5
def pkt0 : Addr := 0x12#5
def prodid : Addr := 0x1F#5
end Reg

/-- `ADDR_SET`, the closed set of the fourteen addresses of R36 (R37). -/
def addrSet : List Addr :=
  [Reg.id, Reg.fwver, Reg.status, Reg.syscfg, Reg.feed1, Reg.feed2, Reg.calcfg, Reg.srate, Reg.zidle, Reg.zscaler,
    Reg.slpint, Reg.slptmr, Reg.pkt0, Reg.prodid]

/-- Membership in `ADDR_SET` (R37). -/
def listed (a : Addr) : Bool := addrSet.contains a

/-- A block length the block takes: `1 <= N <= MAX_BLOCK` (R70, R80). -/
def goodLength (n : Byte) : Bool := decide (1 ≤ n.toNat) && decide (n.toNat ≤ Config.maxBlock)

end Sys2Proof
end

