-- ==== Sys2Proof/WellFormed.lean ====
section
/-! DEFINITION. Which instructions are well formed: the operand conditions of R70. -/

namespace Sys2Proof

/-- The first operand condition an instruction breaks, in the order of R119 (R79, R80). The "must be 0" fields of
R70 are no operands, so they cannot be broken by an instruction as syntax; a wire command byte takes any address (R73). -/
def Instr.operandFault : Instr → Option Reason
  | .rd1 a => if listed a then none else some .unlistedAddress
  | .rdn a n => if listed a then (if goodLength n then none else some .badLength) else some .unlistedAddress
  | .wr a _ => if listed a then none else some .unlistedAddress
  | .wrd a _ => if listed a then none else some .unlistedAddress
  | .decabs => none
  | .decrel => none
  | .sampleAbs => none
  | .sampleRel => none
  | .cmdWrite _ => none
  | .cmdRead _ => none
  | .cont => none
  | .fill => none

/-- An instruction whose operands the block admits. -/
abbrev Instr.WellFormed (i : Instr) : Prop := i.operandFault = none

/-- The eight request rows, as against the four wire rows. -/
def Instr.isRequest : Instr → Bool
  | .rd1 _ => true
  | .rdn _ _ => true
  | .wr _ _ => true
  | .wrd _ _ => true
  | .decabs => true
  | .decrel => true
  | .sampleAbs => true
  | .sampleRel => true
  | .cmdWrite _ => false
  | .cmdRead _ => false
  | .cont => false
  | .fill => false

end Sys2Proof
end

