-- ==== Sys2Proof/Decode.lean ====
section
/-! DEFINITION. The decoder, total on every request word (R85) and every wire byte (R73, R74, R86), and the encoder. -/

namespace Sys2Proof

/-- Field `OP`, bits 15:13 (R68). -/
def opField (w : Word) : BitVec 3 := w.extractLsb' 13 3

/-- Field `ADDR`, bits 12:8 (R68, R71). -/
def addrField (w : Word) : Addr := w.extractLsb' 8 5

/-- Field `ARG`, bits 7:0 (R68, R71). -/
def argField (w : Word) : Byte := w.extractLsb' 0 8

/-- A row with no operands: `ADDR` and `ARG` must be 0 (R70, R78). -/
def noOperands (a : Addr) (arg : Byte) (i : Instr) : Except Reason Instr :=
  if a ≠ 0#5 ∨ arg ≠ 0#8 then .error .reservedField else .ok i

/-- The request decoder, R85. -/
def decodeRequest (w : Word) : Except Reason Instr :=
  let a := addrField w
  let arg := argField w
  match (opField w).toNat with
  | 0 =>
    if arg ≠ 0#8 then .error .reservedField
    else if listed a then .ok (.rd1 a) else .error .unlistedAddress
  | 1 =>
    if listed a then (if goodLength arg then .ok (.rdn a arg) else .error .badLength)
    else .error .unlistedAddress
  | 2 => if listed a then .ok (.wr a arg) else .error .unlistedAddress
  | 3 => if listed a then .ok (.wrd a arg) else .error .unlistedAddress
  | 4 => noOperands a arg .decabs
  | 5 => noOperands a arg .decrel
  | 6 => noOperands a arg .sampleAbs
  | _ => noOperands a arg .sampleRel

/-- Why a code is no instruction. -/
inductive Reject where
  /-- A request word the block refuses (R78 to R80). -/
  | refused (r : Reason)
  /-- A byte that is neither a command nor a marker: on the wire it can only be data (R86). -/
  | dataByte (b : Byte)
  deriving DecidableEq, Repr

/-- The wire rows of the opcode table (R73, R74, R77): which row's bits a byte has. -/
def decodeWire (b : Byte) : Except Reject Instr :=
  if b = 0xFC#8 then .ok .cont
  else if b = 0xFB#8 then .ok .fill
  else if b.extractLsb' 5 3 = 0b100#3 then .ok (.cmdWrite (b.extractLsb' 0 5))
  else if b.extractLsb' 5 3 = 0b101#3 then .ok (.cmdRead (b.extractLsb' 0 5))
  else .error (.dataByte b)

/-- The decoder: a code is an instruction, or it is rejected by name. -/
def decode : Code → Except Reject Instr
  | .request w => (decodeRequest w).mapError .refused
  | .wire b => decodeWire b

/-! The encoder, written from the tables of R68 to R70 and R73, R74. -/

/-- The `REQ` format, `OP ++ ADDR ++ ARG` (R68). -/
def reqWord (op : BitVec 3) (a : Addr) (arg : Byte) : Word := op ++ a ++ arg

/-- The code of an instruction (R69, R70, R73, R74). -/
def encode : Instr → Code
  | .rd1 a => .request (reqWord 0b000#3 a 0#8)
  | .rdn a n => .request (reqWord 0b001#3 a n)
  | .wr a v => .request (reqWord 0b010#3 a v)
  | .wrd a v => .request (reqWord 0b011#3 a v)
  | .decabs => .request (reqWord 0b100#3 0#5 0#8)
  | .decrel => .request (reqWord 0b101#3 0#5 0#8)
  | .sampleAbs => .request (reqWord 0b110#3 0#5 0#8)
  | .sampleRel => .request (reqWord 0b111#3 0#5 0#8)
  | .cmdWrite a => .wire (0b100#3 ++ a)
  | .cmdRead a => .wire (0b101#3 ++ a)
  | .cont => .wire 0xFC#8
  | .fill => .wire 0xFB#8

/-- A word laid out as the opcode table numbers its bits: up to 8 bits it is a wire byte, above that a request word. -/
def tableCode (nbits w : Nat) : Code :=
  if nbits ≤ 8 then .wire (BitVec.ofNat 8 w) else .request (BitVec.ofNat 16 w)

/-- The instruction the decoder reads from an instruction whose bits are `w`, numbered as the opcode table numbers them. -/
def decodeTableWord (nbits w : Nat) : Option Instr := (decode (tableCode nbits w)).toOption

/-! The opcode table's match and mask columns (R70, R73, R74), kept apart from the encoder so that the two can be
held against each other. -/

/-- Match and mask of an instruction's row; a wire row's are zero-extended to 16 bits. -/
def Instr.tableRow : Instr → Word × Word
  | .rd1 _ => (0x0000#16, 0xE0FF#16)
  | .rdn _ _ => (0x2000#16, 0xE000#16)
  | .wr _ _ => (0x4000#16, 0xE000#16)
  | .wrd _ _ => (0x6000#16, 0xE000#16)
  | .decabs => (0x8000#16, 0xFFFF#16)
  | .decrel => (0xA000#16, 0xFFFF#16)
  | .sampleAbs => (0xC000#16, 0xFFFF#16)
  | .sampleRel => (0xE000#16, 0xFFFF#16)
  | .cmdWrite _ => (0x0080#16, 0x00E0#16)
  | .cmdRead _ => (0x00A0#16, 0x00E0#16)
  | .cont => (0x00FC#16, 0x00FF#16)
  | .fill => (0x00FB#16, 0x00FF#16)

/-- The bits of a code as the opcode table numbers them. -/
def Code.bits : Code → Word
  | .request w => w
  | .wire b => b.setWidth 16

/-- "A word w selects a mnemonic when w & mask = match" (R70). -/
def Code.selects (c : Code) (i : Instr) : Prop := c.bits &&& i.tableRow.2 = i.tableRow.1

end Sys2Proof
end

