-- ==== Sys2Proof/Machine/State.lean ====
section
/-! DEFINITION. The state of the machine as plain data, its outcomes and stops, and its construction. -/

namespace Sys2Proof.Machine

/-- An absolute sample (R25): x, y are u16; z, buttons are u8. -/
structure AbsSample where
  x : Word
  y : Word
  z : Byte
  buttons : Byte
  deriving DecidableEq, Repr

/-- A relative sample (R25): x, y are i16 and wheel is i8, in two's complement (R8). -/
structure RelSample where
  x : Word
  y : Word
  wheel : Byte
  primary : Bool
  secondary : Bool
  auxiliary : Bool
  deriving DecidableEq, Repr

/-- The value of an `Ok` outcome, typed per request (R24). -/
inductive Value where
  | byte (v : Byte)
  | bytes (vs : List Byte)
  | unit
  | absSample (v : AbsSample)
  | relSample (v : RelSample)
  deriving DecidableEq, Repr

/-- The outcome of one request on the result port (R24, R114). -/
inductive Result where
  | ok (v : Value)
  | transportError (e : BusError)
  | refused (r : Reason)
  deriving DecidableEq, Repr

/-- One step of a bus transaction (R41). -/
inductive BusStep where
  /-- A full-duplex exchange whose received bytes are captured (R42). -/
  | xfer (out : List Byte)
  /-- A send whose received bytes are discarded (R43). -/
  | write (out : List Byte)
  /-- A wait of at least `us` microseconds, no bytes moving (R44). -/
  | delay (us : Nat)
  deriving DecidableEq, Repr

/-- A bus transaction: its steps in order, under one chip-select framing (R41, R45). -/
abbrev Txn := List BusStep

/-- What `BusTxn` returns (R10, R41): the received lists of the `Xfer` steps in order, or the failing step's error. -/
inductive BusReply where
  | ok (ins : List (List Byte))
  | err (e : BusError)
  deriving DecidableEq, Repr

/-- What a captured byte is, by its position in its transaction (R86). -/
inductive WireRole where
  /-- A first byte 100aaaaa: the command of a write. -/
  | writeCommand (a : Addr)
  /-- A first byte 101aaaaa: the command of a read. -/
  | readCommand (a : Addr)
  /-- A byte after a write command, whatever it equals. -/
  | data (v : Byte)
  /-- CONT after a read command. -/
  | cont
  /-- FILL after a read command. -/
  | fill
  /-- A byte the block does not send at its position (R77, R86). -/
  | foreign (b : Byte)
  deriving DecidableEq, Repr

/-- What a bus monitor reads back from one captured transaction (R86). A WRD's delay moves no bytes, so a WRD reads
back as a write. -/
inductive Reading where
  /-- The frame of RD1 a (R75). -/
  | readOne (a : Addr)
  /-- The frame of RDN a, n (R75). -/
  | readBlock (a : Addr) (n : Nat)
  /-- The frame of WR a, v or of WRD a, v (R75). -/
  | write (a : Addr) (v : Byte)
  /-- The beginning of a frame, its transaction over before the frame was whole (R46; log 14). -/
  | brokenOff (roles : List WireRole)
  /-- Bytes that are no frame of the block (R77, R86; log 14). -/
  | foreign (roles : List WireRole)
  deriving DecidableEq, Repr

/-- What the outside offers the machine, one thing at a time. -/
inductive Offer where
  /-- A request word for the block (R28), or a captured byte for the bus monitor (R86). -/
  | code (c : Code)
  /-- A construction of the block (R34; log 10). -/
  | construct (m : Mode)
  /-- Chip-select is released on the captured bus: the transaction being captured is over (R45; log 13). -/
  | release
  deriving DecidableEq, Repr

/-- The machine's state. The first three fields are the block's own state (R15); RXLEN is the length of `rxbuf`
(log 2). The others are the inputs and outputs of its steps (R12, R15) and the bus monitor (R86, R128). -/
structure State where
  /-- MODE (R17). -/
  mode : Mode
  /-- RXBUF[0 .. RXLEN-1]: exactly the bytes of the receive buffer that hold a value (R19 to R21). -/
  rxbuf : List Byte
  /-- REFUSED (R23). -/
  refused : Bool
  /-- The outcomes posted on the result port, oldest first (R24, R114). -/
  results : List Result
  /-- The transactions sent, oldest first, each with the steps that were run, a failing one included (R41, R54). -/
  wire : List Txn
  /-- What is offered next, in order (R26, R28). -/
  offers : List Offer
  /-- The transport's answers to come, one per bus step; after the last, answers are free values (R27; log 5). -/
  answers : List Answer
  /-- How many answers have been drawn; the free values are indexed by it (log 5). -/
  draws : Nat
  /-- How many more bus steps the transport completes; `none`: it never stops completing them (R114; log 7). -/
  busLife : Option Nat
  /-- The bus monitor: what the bytes of the transaction it is capturing are, in wire order (R45, R86). -/
  capture : List WireRole
  /-- The bus monitor: the transactions it has read back, oldest first (R86, R128). -/
  readings : List Reading
  deriving DecidableEq, Repr

/-- RXLEN, the number of valid bytes at the front of RXBUF (R20). -/
def State.rxlen (s : State) : Nat := s.rxbuf.length

/-- Why the machine stops. -/
inductive Fault where
  /-- Raised by a request whose transaction needs a bus step the transport never completes: "a hang can arise only
  if the transport never completes a step" (R114; I9 of spec/93: `stuck`). Safe: no outcome is claimed. -/
  | transportStuck
  deriving DecidableEq, Repr

/-- Why the machine gives an instruction no meaning. -/
inductive Refusal where
  /-- Raised only by an arm of `exec` whose instruction has no meaning yet; there is none. Safe. -/
  | notModelled (mnemonic : String)
  deriving DecidableEq, Repr

/-- Construction, the block's only reset (R33, R34, R130): it loads MODE, empties the receive buffer, clears REFUSED
and sends nothing. What is outside the block stays (log 10). -/
def State.construct (m : Mode) (s : State) : State := { s with mode := m, rxbuf := [], refused := false }

/-- The machine right after reset: the block constructed with `MODE_INIT` (R33), nothing posted, sent, offered or
captured (logs 1, 5, 7, 8, 11, 12). -/
def State.reset : State where
  mode := Config.modeInit
  rxbuf := []
  refused := false
  results := []
  wire := []
  offers := []
  answers := []
  draws := 0
  busLife := none
  capture := []
  readings := []

end Sys2Proof.Machine
end

