-- ==== Sys2Proof/Machine/Flags.lean ====
section
/-! DEFINITION. The block has no status flags or condition codes (R29). Its one sticky mark is REFUSED (R23), and
every request ends in one outcome on the result port (R24): both are written here. -/

namespace Sys2Proof.Machine

/-- Post a request's outcome on the result port (R24, R114). -/
def State.post (r : Result) (s : State) : State := { s with results := s.results ++ [r] }

/-- `return v` (R10). -/
def State.returnOk (v : Value) (s : State) : State := s.post (.ok v)

/-- `raise TransportError(e)` (R10, R115): the error as the transport gave it; not sticky (R116). -/
def State.raiseError (e : BusError) (s : State) : State := s.post (.transportError e)

/-- `refuse <Reason>` (R10, R117): set the sticky REFUSED, post the refusal, and nothing else. -/
def State.refuse (r : Reason) (s : State) : State := { s with refused := true }.post (.refused r)

end Sys2Proof.Machine
end

