-- ==== Sys2Proof/Machine/Operands.lean ====
section
/-! DEFINITION. The wire encoding of operands: command bytes, markers and the frame of each request (R73 to R76). -/

namespace Sys2Proof.Machine

/-- `WRITE_CMD(a) = 0x80 | (a & 0x1F)` (R73). -/
def writeCmd (a : Addr) : Byte := 0x80#8 ||| (a.setWidth 8 &&& 0x1F#8)

/-- `READ_CMD(a) = 0xA0 | (a & 0x1F)` (R73). -/
def readCmd (a : Addr) : Byte := 0xA0#8 ||| (a.setWidth 8 &&& 0x1F#8)

/-- `CONT`, the continuation marker (R74). -/
def contByte : Byte := 0xFC#8

/-- `FILL`, the terminal fill marker (R74). -/
def fillByte : Byte := 0xFB#8

/-- The padding of an n-byte block read: `rep(n-1, CONT) ++ [FILL]` (R75, R76). -/
def blockPadding (n : Nat) : List Byte := List.replicate (n - 1) contByte ++ [fillByte]

/-- The frame of RD1 a (R75, R89). -/
def readFrame (a : Addr) : Txn := [.xfer [readCmd a, fillByte, fillByte, fillByte]]

/-- The frame of RDN a, n (R75, R90). -/
def blockFrame (a : Addr) (n : Nat) : Txn := [.write [readCmd a, contByte, contByte], .xfer (blockPadding n)]

/-- The frame of WR a, v (R75, R91). -/
def writeFrame (a : Addr) (v : Byte) : Txn := [.write [writeCmd a, v]]

/-- The frame of WRD a, v (R75, R92). -/
def delayedFrame (a : Addr) (v : Byte) : Txn := [.write [writeCmd a, v], .delay Config.tSettle]

/-- The status clear of a SAMPLE: the frame of WRD STATUS, 0x00 (R75, R110). -/
def clearFrame : Txn := delayedFrame Reg.status 0x00#8

/-- The bytes a step puts on the wire; a delay moves none (R42 to R44). -/
def BusStep.bytes : BusStep → List Byte
  | .xfer out => out
  | .write out => out
  | .delay _ => []

/-- The bytes of a transaction in wire order (R45, R51). -/
def txnBytes (t : Txn) : List Byte := t.flatMap BusStep.bytes

end Sys2Proof.Machine
end

