-- ==== Sys2Proof/Machine/Ops.lean ====
section
/-! DEFINITION. The shared operations: running a bus transaction against the transport's answers (R41 to R46), the
receive buffer (R22), and the stop when the transport never completes a step (R114). The block takes no exceptions:
an error or a refusal is a request's outcome (R122, R123), written in Flags.lean. -/

namespace Sys2Proof.Machine

/-! The transport's answers (R27). -/

/-- The answer drawn next: the first of those to come, else a free value. -/
def drawAnswer (answers : List Answer) (draws : Nat) : Answer :=
  match answers with
  | a :: _ => a
  | [] => Config.freeAnswer draws

/-- The bytes received in positions `k, k+1, …` of an exchange of `n` more bytes in the given draw: those the answer
lists, then free values. Always `n` bytes (R42; log 6). -/
def receiveBytes (draw k : Nat) : Nat → List Byte → List Byte
  | 0, _ => []
  | n + 1, [] => Config.freeByte draw k :: receiveBytes draw (k + 1) n []
  | n + 1, b :: bs => b :: receiveBytes draw (k + 1) n bs

/-- What a completed step contributes to `Ok(ins)`: the received list of an `Xfer`, nothing of another step (R41 to R44). -/
def BusStep.received (st : BusStep) (draw : Nat) (bs : List Byte) : List (List Byte) :=
  match st with
  | .xfer out => [receiveBytes draw 0 out.length bs]
  | .write _ => []
  | .delay _ => []

/-- Put an earlier step's received lists before a later reply's; an error stays (R46). -/
def BusReply.push (l : List (List Byte)) : BusReply → BusReply
  | .ok ins => .ok (l ++ ins)
  | .err e => .err e

/-- What a run of a transaction's steps leaves: the steps run, the reply, the answers to come and the draw count. -/
structure BusRun where
  sent : Txn
  reply : BusReply
  answers : List Answer
  draws : Nat
  deriving DecidableEq, Repr

/-- Run a transaction's steps in list order, one answer a step; a failing step ends it (R45, R46). -/
def runSteps : List BusStep → List Answer → Nat → BusRun
  | [], answers, draws => { sent := [], reply := .ok [], answers := answers, draws := draws }
  | st :: sts, answers, draws =>
    match drawAnswer answers draws with
    | .fail e => { sent := [st], reply := .err e, answers := answers.tail, draws := draws + 1 }
    | .done bs =>
      let later := runSteps sts answers.tail (draws + 1)
      { later with sent := st :: later.sent, reply := later.reply.push (st.received draws bs) }

/-- The state after the transaction `t`: its run steps are on the wire and its answers are drawn (R41, R54). -/
def State.afterTxn (s : State) (t : Txn) : State :=
  let run := runSteps t s.answers s.draws
  { s with wire := s.wire ++ [run.sent], answers := run.answers, draws := run.draws }

/-- `BusTxn(t)`'s reply (R41). -/
def State.busReply (s : State) (t : Txn) : BusReply := (runSteps t s.answers s.draws).reply

/-- `r <- BusTxn(t); if r = Err(e) then raise TransportError(e)`, then go on with the received lists (R88, R89). -/
def State.busTxn (s : State) (t : Txn) (onOk : List (List Byte) → State → State) : State :=
  match s.busReply t with
  | .ok ins => onOk ins (s.afterTxn t)
  | .err e => (s.afterTxn t).raiseError e

/-- Byte `k` of the bytes a transaction of `s` received. Every rule's `k` is below the received length
(`Laws.length_receiveBytes`); past it the byte is a free value, never a chosen one (log 6). -/
def State.inByte (s : State) (bytes : List Byte) (k : Nat) : Byte := bytes.getD k (Config.freeByte s.draws k)

/-- Commit received bytes: `RXBUF[k] <- bytes[k]`, `RXLEN <- len(bytes)`; later bytes lose their value (R21, R22). -/
def State.setRxbuf (bytes : List Byte) (s : State) : State := { s with rxbuf := bytes }

/-! Stops and offers. -/

/-- End a request that began in `s` and would leave `t`. If the transport completes fewer bus steps than the request
ran, the machine is stuck (R114; log 7). -/
def finish (s t : State) : Host.Outcome State Fault Refusal :=
  match s.busLife with
  | none => .next t
  | some life =>
    if t.draws - s.draws ≤ life then .next { t with busLife := some (life - (t.draws - s.draws)) }
    else .fault .transportStuck

/-- Check a request's operands before any bus activity (R117, R119), then run it. The decoder has refused such
operands already (log 15). -/
def State.checked (s : State) (i : Instr) (run : State → State) : State :=
  match i.operandFault with
  | some r => s.refuse r
  | none => run s

/-- Check a codec request's mode before any bus activity (R108 to R111, R119), then run it. -/
def State.inMode (s : State) (m : Mode) (run : State → State) : State :=
  if s.mode = m then run s else s.refuse .modeMismatch

/-- The offers after the one being taken (R26). -/
def State.withOffers (offers : List Offer) (s : State) : State := { s with offers := offers }

end Sys2Proof.Machine
end

