-- ==== Sys2Proof/Machine/Codec.lean ====
section
/-! DEFINITION. The codec family: the decode functions (R96 to R107) and DECABS, DECREL, SAMPLE.ABS, SAMPLE.REL
(spec/41_codec.md). -/

namespace Sys2Proof.Machine

/-! The absolute layout (R97 to R101). -/

/-- R97: `x = zext_16(b2) | (zext_16(b4 & 0x0F) << 8)`. -/
def absX (b2 b4 : Byte) : Word := b2.setWidth 16 ||| ((b4 &&& 0x0F#8).setWidth 16 <<< 8)

/-- R98: `y = zext_16(b3) | (zext_16(b4 & 0x70) << 4)`. -/
def absY (b3 b4 : Byte) : Word := b3.setWidth 16 ||| ((b4 &&& 0x70#8).setWidth 16 <<< 4)

/-- R99: `z = b5 & 0x3F`. -/
def absZ (b5 : Byte) : Byte := b5 &&& 0x3F#8

/-- R100: `buttons = b0 & 0x3F`. -/
def absButtons (b0 : Byte) : Byte := b0 &&& 0x3F#8

/-- `decode_abs` (R96, R101): `b1` is ignored. -/
def decodeAbs (b0 _b1 b2 b3 b4 b5 : Byte) : AbsSample :=
  { x := absX b2 b4, y := absY b3 b4, z := absZ b5, buttons := absButtons b0 }

/-! The relative layout (R102 to R106). -/

/-- R102, R103: `if sign = 1 then zext_16(b) - 256 else zext_16(b)`, in an i16. -/
def relAxis (sign : Bool) (b : Byte) : Word := if sign then b.setWidth 16 - 256#16 else b.setWidth 16

/-- `decode_rel` (R102 to R106). The wheel is `b3` read as an i8 (R104): the same bits. -/
def decodeRel (b0 b1 b2 b3 : Byte) : RelSample :=
  { x := relAxis (b0.getLsbD 4) b1
    y := relAxis (b0.getLsbD 5) b2
    wheel := b3
    primary := b0.getLsbD 0
    secondary := b0.getLsbD 1
    auxiliary := b0.getLsbD 2 }

/-! The requests. -/

/-- DECABS on the receive buffer's bytes: refused when fewer than six hold a value (R108). -/
def State.decodeBufferAbs (s : State) : State :=
  match s.rxbuf with
  | b0 :: b1 :: b2 :: b3 :: b4 :: b5 :: _ => s.returnOk (.absSample (decodeAbs b0 b1 b2 b3 b4 b5))
  | _ => s.refuse .unwrittenBuffer

/-- DECREL on the receive buffer's bytes: refused when fewer than four hold a value (R109). -/
def State.decodeBufferRel (s : State) : State :=
  match s.rxbuf with
  | b0 :: b1 :: b2 :: b3 :: _ => s.returnOk (.relSample (decodeRel b0 b1 b2 b3))
  | _ => s.refuse .unwrittenBuffer

/-- DECABS (R108). -/
def execDecabs (s : State) : Host.Outcome State Fault Refusal :=
  finish s <| s.inMode .absolute State.decodeBufferAbs

/-- DECREL (R109). -/
def execDecrel (s : State) : Host.Outcome State Fault Refusal :=
  finish s <| s.inMode .relative State.decodeBufferRel

/-- The two transactions of a SAMPLE (R110, R111): read `n` bytes from PKT0, decode them, clear STATUS, and only then
commit the bytes and return the sample. `decodeBytes` takes byte k of those received. -/
def State.sample (s : State) (n : Nat) (decodeBytes : (Nat → Byte) → Value) : State :=
  s.busTxn (blockFrame Reg.pkt0 n) fun ins t =>
    t.busTxn clearFrame fun _ u =>
      (u.setRxbuf ins.flatten).returnOk (decodeBytes (s.inByte ins.flatten))

/-- SAMPLE.ABS (R110). -/
def execSampleAbs (s : State) : Host.Outcome State Fault Refusal :=
  finish s <| s.inMode .absolute fun s =>
    s.sample 6 fun b => .absSample (decodeAbs (b 0) (b 1) (b 2) (b 3) (b 4) (b 5))

/-- SAMPLE.REL (R111). -/
def execSampleRel (s : State) : Host.Outcome State Fault Refusal :=
  finish s <| s.inMode .relative fun s =>
    s.sample 4 fun b => .relSample (decodeRel (b 0) (b 1) (b 2) (b 3))

end Sys2Proof.Machine
end

