-- ==== Sys2Proof/Machine/Framer.lean ====
section
/-! DEFINITION. The framer family: RD1, RDN, WR, WRD (spec/40_framer.md). -/

namespace Sys2Proof.Machine

/-- RD1 a (R89): the value is the byte in the 4th position of the one exchange. -/
def execRd1 (a : Addr) (s : State) : Host.Outcome State Fault Refusal :=
  finish s <| s.checked (.rd1 a) fun s =>
    s.busTxn (readFrame a) fun ins t =>
      let v := s.inByte ins.flatten 3
      (t.setRxbuf [v]).returnOk (.byte v)

/-- RDN a, N (R90): the value is the N bytes received in the second step. -/
def execRdn (a : Addr) (n : Byte) (s : State) : Host.Outcome State Fault Refusal :=
  finish s <| s.checked (.rdn a n) fun s =>
    s.busTxn (blockFrame a n.toNat) fun ins t =>
      (t.setRxbuf ins.flatten).returnOk (.bytes ins.flatten)

/-- WR a, v (R91). -/
def execWr (a : Addr) (v : Byte) (s : State) : Host.Outcome State Fault Refusal :=
  finish s <| s.checked (.wr a v) fun s =>
    s.busTxn (writeFrame a v) fun _ t => t.returnOk .unit

/-- WRD a, v (R92). -/
def execWrd (a : Addr) (v : Byte) (s : State) : Host.Outcome State Fault Refusal :=
  finish s <| s.checked (.wrd a v) fun s =>
    s.busTxn (delayedFrame a v) fun _ t => t.returnOk .unit

end Sys2Proof.Machine
end

