-- ==== Sys2Proof/Machine/Monitor.lean ====
section
/-! DEFINITION. The four wire rows, as the bus monitor reads them back from a captured transaction (R86, R128; log 12).
The monitor is an external tool: nothing here touches the block's state. -/

namespace Sys2Proof.Machine

/-- What a byte is, after the first byte of its transaction (R86): the first is a command, the others are positional. -/
def byteRole (first : Option WireRole) (b : Byte) : WireRole :=
  match first with
  | none =>
    if b.extractLsb' 5 3 = 0b100#3 then .writeCommand (b.extractLsb' 0 5)
    else if b.extractLsb' 5 3 = 0b101#3 then .readCommand (b.extractLsb' 0 5)
    else .foreign b
  | some (.writeCommand _) => .data b
  | some (.readCommand _) => if b = contByte then .cont else if b = fillByte then .fill else .foreign b
  | some (.data _) => .foreign b
  | some .cont => .foreign b
  | some .fill => .foreign b
  | some (.foreign _) => .foreign b

/-- The byte that has a role. -/
def WireRole.byte : WireRole → Byte
  | .writeCommand a => writeCmd a
  | .readCommand a => readCmd a
  | .data v => v
  | .cont => contByte
  | .fill => fillByte
  | .foreign b => b

/-- What the bytes of one transaction are (R86). -/
def wireRoles : List Byte → List WireRole
  | [] => []
  | c :: bs => byteRole none c :: bs.map (byteRole (some (byteRole none c)))

/-- How the bytes of a transaction compare with the frames of the block (R75). -/
inductive FrameStatus where
  | whole (r : Reading)
  | beginning
  | noFrame
  deriving DecidableEq, Repr

/-- The data positions of a block read, after `k` of them (R75, R76, R80): CONT goes on, FILL ends the block. -/
def readBlockTail (a : Addr) (k : Nat) : List WireRole → FrameStatus
  | [] => if k < Config.maxBlock then .beginning else .noFrame
  | .cont :: rs => readBlockTail a (k + 1) rs
  | [.fill] => if k < Config.maxBlock then .whole (.readBlock a (k + 1)) else .noFrame
  | _ :: _ => .noFrame

/-- The positions of a read after the command: three FILL are RD1's (R89), two CONT begin RDN's (R90). -/
def readPadding (a : Addr) : List WireRole → FrameStatus
  | [] => .beginning
  | [.cont] => .beginning
  | .cont :: .cont :: rs => readBlockTail a 0 rs
  | [.fill] => .beginning
  | [.fill, .fill] => .beginning
  | [.fill, .fill, .fill] => .whole (.readOne a)
  | _ :: _ => .noFrame

/-- The bytes of a transaction against the frames of R75. -/
def frameStatus : List WireRole → FrameStatus
  | [.writeCommand _] => .beginning
  | [.writeCommand a, .data v] => .whole (.write a v)
  | .readCommand a :: rs => readPadding a rs
  | _ => .noFrame

/-- Reading a captured transaction back (R86): the frame it is, or why it is none (log 14). -/
def readBack (roles : List WireRole) : Reading :=
  match frameStatus roles with
  | .whole r => r
  | .beginning => .brokenOff roles
  | .noFrame => .foreign roles

/-- The monitor takes one captured byte, in the position it has in its transaction (R86). -/
def State.monitorByte (b : Byte) (s : State) : State :=
  { s with capture := s.capture ++ [byteRole s.capture.head? b] }

/-- The monitor sees chip-select released (R45): the transaction captured is read back, and the next byte is the first
of another. A transaction without a byte has no reading (log 13). -/
def State.monitorRelease (s : State) : State :=
  match s.capture with
  | [] => s
  | r :: rs => { s with capture := [], readings := s.readings ++ [readBack (r :: rs)] }

/-- CMD_WRITE a: the byte `WRITE_CMD(a)` on the wire (R73, R86). -/
def execCmdWrite (a : Addr) (s : State) : Host.Outcome State Fault Refusal := .next (s.monitorByte (writeCmd a))

/-- CMD_READ a: the byte `READ_CMD(a)` on the wire (R73, R86). -/
def execCmdRead (a : Addr) (s : State) : Host.Outcome State Fault Refusal := .next (s.monitorByte (readCmd a))

/-- CONT on the wire (R74, R86). -/
def execCont (s : State) : Host.Outcome State Fault Refusal := .next (s.monitorByte contByte)

/-- FILL on the wire (R74, R86). -/
def execFill (s : State) : Host.Outcome State Fault Refusal := .next (s.monitorByte fillByte)

/-- What becomes of an offered code that is no instruction: a request word is refused (R117); a wire byte of no row is
read by the monitor as the byte it is, data or foreign by its position (R86). -/
def State.rejectCode (r : Reject) (s : State) : State :=
  match r with
  | .refused reason => s.refuse reason
  | .dataByte b => s.monitorByte b

end Sys2Proof.Machine
end

