-- ==== Sys2Proof/Machine/Dispatch.lean ====
section
/-! DEFINITION. One arm per constructor of Instr. -/

namespace Sys2Proof.Machine

def exec (i : Instr) (s : State) : Host.Outcome State Fault Refusal :=
  match i with
  | .rd1 a => Sys2Proof.Machine.execRd1 a s
  | .rdn a n => Sys2Proof.Machine.execRdn a n s
  | .wr a v => Sys2Proof.Machine.execWr a v s
  | .wrd a v => Sys2Proof.Machine.execWrd a v s
  | .decabs => Sys2Proof.Machine.execDecabs s
  | .decrel => Sys2Proof.Machine.execDecrel s
  | .sampleAbs => Sys2Proof.Machine.execSampleAbs s
  | .sampleRel => Sys2Proof.Machine.execSampleRel s
  | .cmdWrite a => Sys2Proof.Machine.execCmdWrite a s
  | .cmdRead a => Sys2Proof.Machine.execCmdRead a s
  | .cont => Sys2Proof.Machine.execCont s
  | .fill => Sys2Proof.Machine.execFill s

end Sys2Proof.Machine
end

