-- ==== Sys2Proof/Machine/Step.lean ====
section
/-! DEFINITION. One step of the machine: take the next offer and run it to completion (R12, R26). -/

namespace Sys2Proof.Machine

/-- One step. With nothing offered the block is idle and holds its state (R129, R131; log 9). -/
def step (s : State) : Host.Outcome State Fault Refusal :=
  match s.offers with
  | [] => .next s
  | .construct m :: rest => .next ((s.withOffers rest).construct m)
  | .release :: rest => .next (s.withOffers rest).monitorRelease
  | .code c :: rest =>
    match decode c with
    | .ok i => exec i (s.withOffers rest)
    | .error r => .next ((s.withOffers rest).rejectCode r)

/-- `s` with an instruction, its bits numbered as the opcode table numbers them, offered next (log 8). -/
def State.withFetchWord (s : State) (nbits w : Nat) : State :=
  s.withOffers (.code (tableCode nbits w) :: s.offers)

end Sys2Proof.Machine
end

