-- ==== Sys2Proof/Machine/Assembler.lean ====
section
/-! DEFINITION. The line assembler of R82 to R84: mnemonics, pseudo-instructions, register names and literals. Text is
a list of characters a line; a host's tool, no part of the block (log 20). -/

namespace Sys2Proof.Machine

/-- Why the assembler rejects a line (R82). -/
inductive AsmError where
  | unknownMnemonic
  | badOperands
  | badNumber
  | badAddress
  | badLength
  | badValue
  deriving DecidableEq, Repr

/-- Register names and their addresses (R84). -/
def registerNames : List (List Char × Addr) :=
  [("ID".toList, Reg.id), ("FWVER".toList, Reg.fwver), ("STATUS".toList, Reg.status), ("SYSCFG".toList, Reg.syscfg),
    ("FEED1".toList, Reg.feed1), ("FEED2".toList, Reg.feed2), ("CALCFG".toList, Reg.calcfg),
    ("SRATE".toList, Reg.srate), ("ZIDLE".toList, Reg.zidle), ("ZSCALER".toList, Reg.zscaler),
    ("SLPINT".toList, Reg.slpint), ("SLPTMR".toList, Reg.slptmr), ("PKT0".toList, Reg.pkt0),
    ("PRODID".toList, Reg.prodid)]

/-- The syntax a mnemonic takes: an address, an address and a count, an address and a value (with the instruction they
make), or no operands (R82, R83). -/
inductive Shape where
  | addr
  | addrCount
  | addrValue (delayed : Bool)
  | plain (i : Instr)
  deriving DecidableEq, Repr

/-- The mnemonics of R82 and the pseudo-instructions of R83. -/
def mnemonics : List (List Char × Shape) :=
  [("RD1".toList, .addr), ("RDN".toList, .addrCount), ("WR".toList, .addrValue false), ("WRD".toList, .addrValue true),
    ("DECABS".toList, .plain .decabs), ("DECREL".toList, .plain .decrel), ("SAMPLE.ABS".toList, .plain .sampleAbs),
    ("SAMPLE.REL".toList, .plain .sampleRel), ("RDSTAT".toList, .plain (.rd1 Reg.status)),
    ("CLRSTAT".toList, .plain (.wrd Reg.status 0x00#8)), ("RDPKT.ABS".toList, .plain (.rdn Reg.pkt0 6#8)),
    ("RDPKT.REL".toList, .plain (.rdn Reg.pkt0 4#8))]

/-- Capitals, since "mnemonics are case-insensitive" (R82). -/
def upperChar (c : Char) : Char := if 'a' ≤ c ∧ c ≤ 'z' then Char.ofNat (c.toNat - 32) else c

def isBlank (c : Char) : Bool := c == ' ' || c == '\t'

def trimBlanks (l : List Char) : List Char := ((l.dropWhile isBlank).reverse.dropWhile isBlank).reverse

/-- The parts between commas. -/
def splitCommas : List Char → List (List Char)
  | [] => [[]]
  | c :: cs =>
    if c = ',' then [] :: splitCommas cs
    else
      match splitCommas cs with
      | [] => [[c]]
      | part :: parts => (c :: part) :: parts

/-- A digit's value, if it is one in the base. -/
def digitValue (base : Nat) (c : Char) : Option Nat :=
  let v :=
    if '0' ≤ c ∧ c ≤ '9' then some (c.toNat - 48)
    else if 'a' ≤ c ∧ c ≤ 'f' then some (c.toNat - 87)
    else if 'A' ≤ c ∧ c ≤ 'F' then some (c.toNat - 55)
    else none
  v.filter (· < base)

/-- The value of digits, most significant first, after the value `acc`. -/
def digitsValue (base acc : Nat) : List Char → Option Nat
  | [] => some acc
  | c :: cs => (digitValue base c).bind fun d => digitsValue base (acc * base + d) cs

/-- A literal: `0x` hexadecimal, `0b` binary, or decimal (R84). DESIGN CHOICE (log 20): no `_` stands in a literal; R7's
separators are the spec's own notation, and R84 does not speak of them. -/
def literalValue : List Char → Option Nat
  | [] => none
  | '0' :: 'x' :: d :: ds => digitsValue 16 0 (d :: ds)
  | '0' :: 'b' :: d :: ds => digitsValue 2 0 (d :: ds)
  | ds => digitsValue 10 0 ds

/-- An address operand: a register name or a literal, in ADDR_SET (R82). -/
def parseAddr (t : List Char) : Except AsmError Addr :=
  match registerNames.lookup t with
  | some a => .ok a
  | none =>
    match literalValue t with
    | none => .error .badNumber
    | some n => if n < 32 ∧ listed (BitVec.ofNat 5 n) then .ok (BitVec.ofNat 5 n) else .error .badAddress

/-- A value operand, 0 to 255 (R82). -/
def parseValue (t : List Char) : Except AsmError Byte :=
  match literalValue t with
  | none => .error .badNumber
  | some n => if n < 256 then .ok (BitVec.ofNat 8 n) else .error .badValue

/-- A count operand, 1 to MAX_BLOCK (R82). -/
def parseCount (t : List Char) : Except AsmError Byte :=
  match literalValue t with
  | none => .error .badNumber
  | some n => if 1 ≤ n ∧ n ≤ Config.maxBlock then .ok (BitVec.ofNat 8 n) else .error .badLength

/-- The instruction a mnemonic's shape and its operands stand for (R82). -/
def parseOperands (shape : Shape) (args : List (List Char)) : Except AsmError Instr :=
  match shape, args with
  | .addr, [a] => (parseAddr a).map .rd1
  | .addrCount, [a, n] => (parseAddr a).bind fun a => (parseCount n).map fun n => .rdn a n
  | .addrValue delayed, [a, v] =>
    (parseAddr a).bind fun a => (parseValue v).map fun v => if delayed then .wrd a v else .wr a v
  | .plain i, [] => .ok i
  | _, _ => .error .badOperands

/-- The instruction of one line, if it holds one: `;` starts a comment, and a blank line holds none (R82). -/
def parseLine (line : List Char) : Except AsmError (Option Instr) :=
  let text := trimBlanks (line.takeWhile (· != ';'))
  if text = [] then .ok none
  else
    let m := (text.takeWhile fun c => !isBlank c).map upperChar
    let rest := trimBlanks (text.dropWhile fun c => !isBlank c)
    let args := if rest = [] then [] else (splitCommas rest).map trimBlanks
    match mnemonics.lookup m with
    | none => .error .unknownMnemonic
    | some shape => (parseOperands shape args).map some

/-- Assemble the lines from line number `k` on; a rejection names the line (R82). -/
def assembleFrom (k : Nat) : List (List Char) → Except (Nat × AsmError) (List Code)
  | [] => .ok []
  | line :: lines =>
    match parseLine line with
    | .error e => .error (k, e)
    | .ok none => assembleFrom (k + 1) lines
    | .ok (some i) => (assembleFrom (k + 1) lines).map fun codes => encode i :: codes

/-- Assemble a program, its lines numbered from 1 (R82). -/
def assemble (lines : List (List Char)) : Except (Nat × AsmError) (List Code) := assembleFrom 1 lines

end Sys2Proof.Machine
end

