-- ==== Sys2Proof/Safety.lean ====
section
/-! DEFINITION. What counts as a safe run, in the terms claims use: what the block may put on the wire, the invariant of
its state, and the duties of the host. -/

namespace Sys2Proof.Safety

open Sys2Proof.Machine

/-- The transactions the block sends: the frames of R75, for the operands R70 admits. -/
inductive BlockFrame : Txn → Prop where
  | readOne (a : Addr) (ha : listed a = true) : BlockFrame (readFrame a)
  | readBlock (a : Addr) (n : Byte) (ha : listed a = true) (hn : goodLength n = true) : BlockFrame (blockFrame a n.toNat)
  | writeOne (a : Addr) (v : Byte) (ha : listed a = true) : BlockFrame (writeFrame a v)
  | writeDelayed (a : Addr) (v : Byte) (ha : listed a = true) : BlockFrame (delayedFrame a v)

/-- What a transaction leaves on the wire: a frame of the block, or its steps up to one that failed (R46, R87). -/
def OnWire (t : Txn) : Prop := ∃ f, BlockFrame f ∧ t ≠ [] ∧ t <+: f

/-- The machine's invariant: the receive buffer fits (R19, R20), only frames of the block are on the wire (R87), and
the monitor takes each byte of the transaction it captures by its position (R86; logs 12, 13). -/
structure MachineInv (s : State) : Prop where
  buffer : s.rxlen ≤ Config.maxBlock
  wire : ∀ t ∈ s.wire, OnWire t
  capture : s.capture = wireRoles (s.capture.map WireRole.byte)

/-- A transaction that writes the sensor's STATUS register. -/
def writesStatus (t : Txn) : Bool :=
  match t with
  | .write (c :: _) :: _ => c == writeCmd Reg.status
  | _ => false

/-- A status write that waits the settle time before the next command (R50, R135). -/
def settles (t : Txn) : Bool := !writesStatus t || t.contains (.delay Config.tSettle)

/-- The host's duty before it samples: the status byte it read shows data ready (R136); the mask is OPEN. -/
def dataReady (status : Byte) : Bool := status &&& Config.statusDrMask != 0#8

/-- The host's duty after a sensor reset, before the first request: it has waited long enough (R132); the time is OPEN. -/
def resetSettled (waitedUs : Nat) : Bool := decide (Config.tResetSettle ≤ waitedUs)

/-- The transport completes `k` more bus steps (R114). -/
def completes (s : State) (k : Nat) : Prop := ∀ life, s.busLife = some life → k ≤ life

/-- `s` after `k` completed bus steps, as far as `busLife` goes. -/
def spendLife (k : Nat) (s : State) : State := { s with busLife := s.busLife.map (· - k) }

/-- The transport's answer to the k-th bus step from now, counted from 0 (R27). -/
def answerAt (s : State) (k : Nat) : Answer := drawAnswer (s.answers.drop k) (s.draws + k)

/-- `s` after `k` more answers have been drawn (R27). -/
def drawn (k : Nat) (s : State) : State := { s with answers := s.answers.drop k, draws := s.draws + k }

/-- `s` after the transactions `ts` went on the wire (R54). -/
def sent (ts : List Txn) (s : State) : State := { s with wire := s.wire ++ ts }

/-- `k` steps of the machine, stopping at the first stop. -/
def stepTimes : Nat → State → Host.Outcome State Fault Refusal
  | 0, s => .next s
  | k + 1, s =>
    match step s with
    | .next t => stepTimes k t
    | .fault f => .fault f
    | .refused r => .refused r

/-- `data` are the bytes received in an exchange of `n` bytes by the answer `bs` of draw number `draw`: byte k is the
answer's, where it lists one, else a free value (R27, R42). -/
def Received (draw n : Nat) (bs data : List Byte) : Prop :=
  data.length = n ∧ ∀ k, k < n → data[k]? = some (bs.getD k (Config.freeByte draw k))

/-- The value of an `Ok` outcome has the type R24 gives the request; a read's bytes are the new receive buffer. -/
def valueFits (i : Instr) (v : Value) (after : State) : Prop :=
  match i with
  | .rd1 _ => ∃ b, v = .byte b ∧ after.rxbuf = [b]
  | .rdn _ n => ∃ bs, v = .bytes bs ∧ bs.length = n.toNat ∧ after.rxbuf = bs
  | .wr _ _ => v = .unit
  | .wrd _ _ => v = .unit
  | .decabs => ∃ x, v = .absSample x
  | .decrel => ∃ x, v = .relSample x
  | .sampleAbs => ∃ x, v = .absSample x
  | .sampleRel => ∃ x, v = .relSample x
  | .cmdWrite _ => False
  | .cmdRead _ => False
  | .cont => False
  | .fill => False

end Sys2Proof.Safety
end

