-- ==== Sys2Proof/Certificates/Slice0/Obligations.lean ====
section
/-! DEFINITION. The statements for the provers, from the numbered rules of spec/. Commands and markers are written out
as the rules give them, not by the model's names for them. -/

open Sys2Proof Sys2Proof.Machine Sys2Proof.Safety

/-! ## Encoding -/

/-- R67 to R74: every well-formed instruction, at every operand value, decodes from its own code. -/
def Obligations.DecodeOfEncodeIsTheInstruction : Prop :=
  ∀ i : Instr, i.WellFormed → decode (encode i) = .ok i

/-- R67 to R74, R85: "one word per meaning"; what the decoder accepts is well formed and encodes to the code it came from. -/
def Obligations.EncodeOfDecodeIsTheCode : Prop :=
  ∀ (c : Code) (i : Instr), decode c = .ok i → encode i = c ∧ i.WellFormed

/-- R81, R85: every word is one of the eight operations, or it breaks R78, R79 or R80. -/
def Obligations.EveryOtherWordIsARequest : Prop :=
  ∀ w : Word,
    (w.extractLsb' 13 3 = 0b000#3 → w.extractLsb' 0 8 = 0#8) →
    (4 ≤ (w.extractLsb' 13 3).toNat → w.extractLsb' 8 5 = 0#5 ∧ w.extractLsb' 0 8 = 0#8) →
    ((w.extractLsb' 13 3).toNat ≤ 3 → w.extractLsb' 8 5 ∈ addrSet) →
    (w.extractLsb' 13 3 = 0b001#3 →
      1 ≤ (w.extractLsb' 0 8).toNat ∧ (w.extractLsb' 0 8).toNat ≤ Config.maxBlock) →
    ∃ i : Instr, i.isRequest = true ∧ i.WellFormed ∧ decode (.request w) = .ok i ∧ encode i = .request w

/-- Words and bytes written out from the tables of R70, R73, R74 (and of spec/95) decode to their instructions. -/
def Obligations.TableWordsDecode : Prop :=
  decodeTableWord 16 0x0200 = some (.rd1 0x02#5) ∧ decodeTableWord 16 0x3206 = some (.rdn 0x12#5 6#8) ∧
    decodeTableWord 16 0x4403 = some (.wr 0x04#5 0x03#8) ∧ decodeTableWord 16 0x6781 = some (.wrd 0x07#5 0x81#8) ∧
    decodeTableWord 16 0x8000 = some .decabs ∧ decodeTableWord 16 0xA000 = some .decrel ∧
    decodeTableWord 16 0xC000 = some .sampleAbs ∧ decodeTableWord 16 0xE000 = some .sampleRel ∧
    decodeTableWord 8 0x82 = some (.cmdWrite 0x02#5) ∧ decodeTableWord 8 0xB2 = some (.cmdRead 0x12#5) ∧
    decodeTableWord 8 0xFC = some .cont ∧ decodeTableWord 8 0xFB = some .fill

/-- R73, R77: the command byte's bits. -/
def Obligations.CommandByteBits : Prop :=
  ∀ a : Addr,
    writeCmd a = 0x80#8 ||| (a.setWidth 8 &&& 0x1F#8) ∧ readCmd a = 0xA0#8 ||| (a.setWidth 8 &&& 0x1F#8) ∧
    writeCmd a = 0b100#3 ++ a ∧ readCmd a = 0b101#3 ++ a ∧
    encode (.cmdWrite a) = .wire (writeCmd a) ∧ encode (.cmdRead a) = .wire (readCmd a) ∧
    0x80 ≤ (writeCmd a).toNat ∧ (writeCmd a).toNat ≤ 0x9F ∧ 0xA0 ≤ (readCmd a).toNat ∧ (readCmd a).toNat ≤ 0xBF

/-- R76: every read frame ends with FILL; the padding before it is CONT in a block read and FILL in RD1. -/
def Obligations.ReadFramesEndWithFill : Prop :=
  ∀ a : Addr,
    txnBytes (readFrame a) = [readCmd a, 0xFB#8, 0xFB#8, 0xFB#8] ∧
    ∀ n : Nat, 1 ≤ n →
      (txnBytes (blockFrame a n)).length = 3 + n ∧ (txnBytes (blockFrame a n))[2 + n]? = some 0xFB#8 ∧
      ∀ k, 1 ≤ k → k < 2 + n → (txnBytes (blockFrame a n))[k]? = some 0xFC#8

/-! ## The step -/

/-- R12, R26: an offered code that decodes to `i` runs `i`, the offer taken. (Offers as a list: log 8.) -/
def Obligations.StepRunsTheDecodedInstruction : Prop :=
  ∀ (s : State) (c : Code) (rest : List Offer) (i : Instr),
    s.offers = .code c :: rest → decode c = .ok i → step s = exec i { s with offers := rest }

/-- R129, R131: with nothing offered the block is idle and holds its state. (An idle step: the model's choice, log 9.) -/
def Obligations.IdleStepHoldsTheState : Prop := ∀ s : State, s.offers = [] → step s = .next s

/-- R130: construction loads MODE, empties the buffer, clears REFUSED, and sends nothing. (Construction as an offer: log 10.) -/
def Obligations.ConstructionSetsTheResetValues : Prop :=
  ∀ (s : State) (m : Mode) (rest : List Offer), s.offers = .construct m :: rest →
    step s = .next { s with mode := m, rxbuf := [], refused := false, offers := rest }

/-- R33: the block's state after its construction with MODE_INIT; RXLEN is 0 and no buffer byte holds a value. -/
def Obligations.ResetValues : Prop :=
  State.reset.mode = Config.modeInit ∧ State.reset.rxlen = 0 ∧ (∀ k : Nat, State.reset.rxbuf[k]? = none) ∧
    State.reset.refused = false

/-- R78: a nonzero "must be 0" field is refused with ReservedField, whatever else is wrong. -/
def Obligations.ReservedFieldIsRefused : Prop :=
  ∀ (s : State) (w : Word) (rest : List Offer), s.offers = .code (.request w) :: rest →
    ((w.extractLsb' 13 3 = 0b000#3 ∧ w.extractLsb' 0 8 ≠ 0#8) ∨
      (4 ≤ (w.extractLsb' 13 3).toNat ∧ (w.extractLsb' 8 5 ≠ 0#5 ∨ w.extractLsb' 0 8 ≠ 0#8))) →
    step s = .next { s with offers := rest, refused := true, results := s.results ++ [.refused .reservedField] }

/-- R79: an address outside ADDR_SET is refused with UnlistedAddress, unless the word is refused for a reserved field
first (R119). -/
def Obligations.UnlistedAddressIsRefused : Prop :=
  ∀ (s : State) (w : Word) (rest : List Offer), s.offers = .code (.request w) :: rest →
    (w.extractLsb' 13 3).toNat ≤ 3 → (w.extractLsb' 13 3 = 0b000#3 → w.extractLsb' 0 8 = 0#8) →
    (w.extractLsb' 8 5) ∈
      [0x06#5, 0x08#5, 0x0E#5, 0x0F#5, 0x10#5, 0x11#5, 0x13#5, 0x14#5, 0x15#5, 0x16#5, 0x17#5, 0x18#5, 0x19#5,
        0x1A#5, 0x1B#5, 0x1C#5, 0x1D#5, 0x1E#5] →
    step s = .next { s with offers := rest, refused := true, results := s.results ++ [.refused .unlistedAddress] }

/-- R80: RDN with N = 0 or N > MAX_BLOCK is refused with BadLength; its address listed, since an unlisted one is
refused first (R119). -/
def Obligations.BadLengthIsRefused : Prop :=
  ∀ (s : State) (w : Word) (rest : List Offer), s.offers = .code (.request w) :: rest →
    w.extractLsb' 13 3 = 0b001#3 → listed (w.extractLsb' 8 5) = true →
    ((w.extractLsb' 0 8).toNat = 0 ∨ Config.maxBlock < (w.extractLsb' 0 8).toNat) →
    step s = .next { s with offers := rest, refused := true, results := s.results ++ [.refused .badLength] }

/-! ## The framer -/

/-- R89: RD1 exchanges its four bytes and returns the one in the 4th position; on an error nothing is
written; and its word, with the refusals of R78 and R79. -/
def Obligations.Rd1ReturnsTheFourthByte : Prop :=
  ∀ (s : State) (a : Addr),
    (listed a = true → completes s 1 →
      (∀ (bs : List Byte) (v : Byte), answerAt s 0 = .done bs → v = bs.getD 3 (Config.freeByte s.draws 3) →
        exec (.rd1 a) s = .next (spendLife 1 (drawn 1
          (sent [[.xfer [0xA0#8 ||| a.setWidth 8, 0xFB#8, 0xFB#8, 0xFB#8]]]
            { s with rxbuf := [v], results := s.results ++ [.ok (.byte v)] })))) ∧
      (∀ e : BusError, answerAt s 0 = .fail e →
        exec (.rd1 a) s = .next (spendLife 1 (drawn 1
          (sent [[.xfer [0xA0#8 ||| a.setWidth 8, 0xFB#8, 0xFB#8, 0xFB#8]]]
            { s with results := s.results ++ [.transportError e] }))))) ∧
    (listed a = false →
      exec (.rd1 a) s = .next { s with refused := true, results := s.results ++ [.refused .unlistedAddress] }) ∧
    ∀ arg : Byte, decodeRequest (0b000#3 ++ a ++ arg : Word) =
      if arg ≠ 0#8 then .error .reservedField else if listed a then .ok (.rd1 a) else .error .unlistedAddress

/-- R90: RDN sends its two steps and returns the bytes of the second, N of them; on an error nothing is
written; and its word, with the refusals of R79 and R80. -/
def Obligations.RdnReturnsTheBlock : Prop :=
  ∀ (s : State) (a : Addr) (n : Byte) (first second : BusStep),
    first = .write [0xA0#8 ||| a.setWidth 8, 0xFC#8, 0xFC#8] →
    second = .xfer (List.replicate (n.toNat - 1) 0xFC#8 ++ [0xFB#8]) →
    (listed a = true → 1 ≤ n.toNat → n.toNat ≤ Config.maxBlock →
      (∀ b0 b1 data : List Byte, completes s 2 → answerAt s 0 = .done b0 → answerAt s 1 = .done b1 →
        Received (s.draws + 1) n.toNat b1 data →
        exec (.rdn a n) s = .next (spendLife 2 (drawn 2 (sent [[first, second]]
          { s with rxbuf := data, results := s.results ++ [.ok (.bytes data)] })))) ∧
      (∀ e : BusError, completes s 1 → answerAt s 0 = .fail e →
        exec (.rdn a n) s = .next (spendLife 1 (drawn 1 (sent [[first]]
          { s with results := s.results ++ [.transportError e] })))) ∧
      (∀ (b0 : List Byte) (e : BusError), completes s 2 → answerAt s 0 = .done b0 → answerAt s 1 = .fail e →
        exec (.rdn a n) s = .next (spendLife 2 (drawn 2 (sent [[first, second]]
          { s with results := s.results ++ [.transportError e] }))))) ∧
    (listed a = false →
      exec (.rdn a n) s = .next { s with refused := true, results := s.results ++ [.refused .unlistedAddress] }) ∧
    (listed a = true → n.toNat = 0 ∨ Config.maxBlock < n.toNat →
      exec (.rdn a n) s = .next { s with refused := true, results := s.results ++ [.refused .badLength] }) ∧
    decodeRequest (0b001#3 ++ a ++ n : Word) =
      if listed a then (if 1 ≤ n.toNat ∧ n.toNat ≤ Config.maxBlock then .ok (.rdn a n) else .error .badLength)
      else .error .unlistedAddress

/-- R91: WR sends its command and its data byte, any byte, and writes no block state; and its word. -/
def Obligations.WrSendsCommandAndData : Prop :=
  ∀ (s : State) (a : Addr) (v : Byte),
    (listed a = true → completes s 1 →
      (∀ bs : List Byte, answerAt s 0 = .done bs →
        exec (.wr a v) s = .next (spendLife 1 (drawn 1 (sent [[.write [0x80#8 ||| a.setWidth 8, v]]]
          { s with results := s.results ++ [.ok .unit] })))) ∧
      (∀ e : BusError, answerAt s 0 = .fail e →
        exec (.wr a v) s = .next (spendLife 1 (drawn 1 (sent [[.write [0x80#8 ||| a.setWidth 8, v]]]
          { s with results := s.results ++ [.transportError e] }))))) ∧
    (listed a = false →
      exec (.wr a v) s = .next { s with refused := true, results := s.results ++ [.refused .unlistedAddress] }) ∧
    decodeRequest (0b010#3 ++ a ++ v : Word) = if listed a then .ok (.wr a v) else .error .unlistedAddress

/-- R92: WRD is WR with the settle delay inside the same transaction; when the write fails the delay is not run;
and its word. -/
def Obligations.WrdSendsThenWaits : Prop :=
  ∀ (s : State) (a : Addr) (v : Byte),
    (listed a = true →
      (∀ b0 b1 : List Byte, completes s 2 → answerAt s 0 = .done b0 → answerAt s 1 = .done b1 →
        exec (.wrd a v) s = .next (spendLife 2 (drawn 2 (sent [[.write [0x80#8 ||| a.setWidth 8, v], .delay 50]]
          { s with results := s.results ++ [.ok .unit] })))) ∧
      (∀ e : BusError, completes s 1 → answerAt s 0 = .fail e →
        exec (.wrd a v) s = .next (spendLife 1 (drawn 1 (sent [[.write [0x80#8 ||| a.setWidth 8, v]]]
          { s with results := s.results ++ [.transportError e] })))) ∧
      (∀ (b0 : List Byte) (e : BusError), completes s 2 → answerAt s 0 = .done b0 → answerAt s 1 = .fail e →
        exec (.wrd a v) s = .next (spendLife 2 (drawn 2 (sent [[.write [0x80#8 ||| a.setWidth 8, v], .delay 50]]
          { s with results := s.results ++ [.transportError e] }))))) ∧
    (listed a = false →
      exec (.wrd a v) s = .next { s with refused := true, results := s.results ++ [.refused .unlistedAddress] }) ∧
    decodeRequest (0b011#3 ++ a ++ v : Word) = if listed a then .ok (.wrd a v) else .error .unlistedAddress

/-- R93: RD1 a and RDN a, 1 both leave RXLEN at 1, and they send different bytes. -/
def Obligations.Rd1AndRdn1AreNotInterchangeable : Prop :=
  ∀ (s t u : State) (a : Addr) (v : Value) (w : Value),
    exec (.rd1 a) s = .next t → t.results = s.results ++ [.ok v] →
    exec (.rdn a 1#8) s = .next u → u.results = s.results ++ [.ok w] →
    t.rxlen = 1 ∧ u.rxlen = 1 ∧ ∃ x y : Txn, t.wire = s.wire ++ [x] ∧ u.wire = s.wire ++ [y] ∧
      (txnBytes x).drop 1 = [0xFB#8, 0xFB#8, 0xFB#8] ∧ (txnBytes y).drop 1 = [0xFC#8, 0xFC#8, 0xFB#8] ∧
      x.length = 1 ∧ y.length = 2

/-! ## The codec -/

/-- R97 to R100: the fields of an absolute sample. -/
def Obligations.AbsoluteFields : Prop :=
  ∀ b0 b1 b2 b3 b4 b5 : Byte,
    (decodeAbs b0 b1 b2 b3 b4 b5).x = b2.setWidth 16 ||| ((b4 &&& 0x0F#8).setWidth 16 <<< 8) ∧
    (decodeAbs b0 b1 b2 b3 b4 b5).x.toNat = (b4.extractLsb' 0 4).toNat * 256 + b2.toNat ∧
    (decodeAbs b0 b1 b2 b3 b4 b5).y = b3.setWidth 16 ||| ((b4 &&& 0x70#8).setWidth 16 <<< 4) ∧
    (decodeAbs b0 b1 b2 b3 b4 b5).y.toNat = (b4.extractLsb' 4 3).toNat * 256 + b3.toNat ∧
    (decodeAbs b0 b1 b2 b3 b4 b5).z = b5 &&& 0x3F#8 ∧ (decodeAbs b0 b1 b2 b3 b4 b5).z.toNat ≤ 63 ∧
    (decodeAbs b0 b1 b2 b3 b4 b5).buttons = b0 &&& 0x3F#8 ∧ (decodeAbs b0 b1 b2 b3 b4 b5).buttons.toNat ≤ 63

/-- R101: the bits `decode_abs` ignores. -/
def Obligations.AbsoluteIgnoredBits : Prop :=
  ∀ b0 b1 b2 b3 b4 b5 c0 c1 c4 c5 : Byte,
    decodeAbs (b0 ^^^ (c0 &&& 0xC0#8)) c1 b2 b3 (b4 ^^^ (c4 &&& 0x80#8)) (b5 ^^^ (c5 &&& 0xC0#8)) =
      decodeAbs b0 b1 b2 b3 b4 b5

/-- R102 to R105: the fields of a relative sample; x and y are the 9-bit values sign-extended. -/
def Obligations.RelativeFields : Prop :=
  ∀ b0 b1 b2 b3 : Byte,
    (decodeRel b0 b1 b2 b3).x = (BitVec.cons (b0.getLsbD 4) b1).signExtend 16 ∧
    (decodeRel b0 b1 b2 b3).x.toInt = (if b0.getLsbD 4 then (b1.toNat : Int) - 256 else b1.toNat) ∧
    (decodeRel b0 b1 b2 b3).y = (BitVec.cons (b0.getLsbD 5) b2).signExtend 16 ∧
    (decodeRel b0 b1 b2 b3).y.toInt = (if b0.getLsbD 5 then (b2.toNat : Int) - 256 else b2.toNat) ∧
    (decodeRel b0 b1 b2 b3).wheel.toInt = (if b3.getLsbD 7 then (b3.toNat : Int) - 256 else b3.toNat) ∧
    (decodeRel b0 b1 b2 b3).primary = b0.getLsbD 0 ∧ (decodeRel b0 b1 b2 b3).secondary = b0.getLsbD 1 ∧
    (decodeRel b0 b1 b2 b3).auxiliary = b0.getLsbD 2

/-- R106: the bits `decode_rel` ignores, and that it uses every bit of the last three bytes. -/
def Obligations.RelativeIgnoredBits : Prop :=
  (∀ b0 b1 b2 b3 c : Byte, decodeRel (b0 ^^^ (c &&& 0xC8#8)) b1 b2 b3 = decodeRel b0 b1 b2 b3) ∧
    ∀ b0 b1 b2 b3 c1 c2 c3 : Byte,
      decodeRel b0 b1 b2 b3 = decodeRel b0 c1 c2 c3 → b1 = c1 ∧ b2 = c2 ∧ b3 = c3

/-- R107: the codec's ranges are exactly those it states; nothing is clamped, so every value in them is produced. -/
def Obligations.CodecRangesAreExact : Prop :=
  (∀ x y : Word, ∀ z buttons : Byte,
    (x.toNat ≤ 4095 ∧ y.toNat ≤ 2047 ∧ z.toNat ≤ 63 ∧ buttons.toNat ≤ 63) ↔
      ∃ b0 b1 b2 b3 b4 b5 : Byte, decodeAbs b0 b1 b2 b3 b4 b5 = { x := x, y := y, z := z, buttons := buttons }) ∧
  (∀ (x y : Word) (wheel : Byte) (p q r : Bool),
    (-256 ≤ x.toInt ∧ x.toInt ≤ 255 ∧ -256 ≤ y.toInt ∧ y.toInt ≤ 255) ↔
      ∃ b0 b1 b2 b3 : Byte, decodeRel b0 b1 b2 b3 =
        { x := x, y := y, wheel := wheel, primary := p, secondary := q, auxiliary := r })

/-- R108: DECABS decodes the first six bytes of the buffer, whatever they are; refused for the mode, then for a short
buffer; and its word, a nonzero field refused first. -/
def Obligations.DecabsDecodesTheBuffer : Prop :=
  ∀ s : State,
    (∀ (b0 b1 b2 b3 b4 b5 : Byte) (bs : List Byte), s.mode = .absolute →
      s.rxbuf = b0 :: b1 :: b2 :: b3 :: b4 :: b5 :: bs →
      exec .decabs s =
        .next { s with results := s.results ++ [.ok (.absSample (decodeAbs b0 b1 b2 b3 b4 b5))] }) ∧
    (s.mode ≠ .absolute →
      exec .decabs s = .next { s with refused := true, results := s.results ++ [.refused .modeMismatch] }) ∧
    (s.mode = .absolute → s.rxlen < 6 →
      exec .decabs s = .next { s with refused := true, results := s.results ++ [.refused .unwrittenBuffer] }) ∧
    ∀ (a : Addr) (arg : Byte), decodeRequest (0b100#3 ++ a ++ arg : Word) =
      if a = 0#5 ∧ arg = 0#8 then .ok .decabs else .error .reservedField

/-- R109: DECREL decodes the first four bytes of the buffer; refused for the mode, then for a short buffer; and its
word, a nonzero field refused first. -/
def Obligations.DecrelDecodesTheBuffer : Prop :=
  ∀ s : State,
    (∀ (b0 b1 b2 b3 : Byte) (bs : List Byte), s.mode = .relative → s.rxbuf = b0 :: b1 :: b2 :: b3 :: bs →
      exec .decrel s = .next { s with results := s.results ++ [.ok (.relSample (decodeRel b0 b1 b2 b3))] }) ∧
    (s.mode ≠ .relative →
      exec .decrel s = .next { s with refused := true, results := s.results ++ [.refused .modeMismatch] }) ∧
    (s.mode = .relative → s.rxlen < 4 →
      exec .decrel s = .next { s with refused := true, results := s.results ++ [.refused .unwrittenBuffer] }) ∧
    ∀ (a : Addr) (arg : Byte), decodeRequest (0b101#3 ++ a ++ arg : Word) =
      if a = 0#5 ∧ arg = 0#8 then .ok .decrel else .error .reservedField

/-- R110: SAMPLE.ABS reads six bytes from PKT0, decodes them, clears STATUS, and only then commits and returns; an
error at any of its four bus steps ends it there, with nothing committed; and its word. -/
def Obligations.SampleAbsReadsDecodesClears : Prop :=
  ∀ (s : State) (r1 r2 w1 w2 : BusStep),
    r1 = .write [0xB2#8, 0xFC#8, 0xFC#8] → r2 = .xfer [0xFC#8, 0xFC#8, 0xFC#8, 0xFC#8, 0xFC#8, 0xFB#8] →
    w1 = .write [0x82#8, 0x00#8] → w2 = .delay 50 →
    (s.mode = .absolute →
      (∀ (x0 x1 x2 x3 : List Byte) (b0 b1 b2 b3 b4 b5 : Byte), completes s 4 →
        answerAt s 0 = .done x0 → answerAt s 1 = .done x1 → answerAt s 2 = .done x2 → answerAt s 3 = .done x3 →
        Received (s.draws + 1) 6 x1 [b0, b1, b2, b3, b4, b5] →
        exec .sampleAbs s = .next (spendLife 4 (drawn 4 (sent [[r1, r2], [w1, w2]]
          { s with rxbuf := [b0, b1, b2, b3, b4, b5]
                   results := s.results ++ [.ok (.absSample (decodeAbs b0 b1 b2 b3 b4 b5))] })))) ∧
      (∀ e : BusError, completes s 1 → answerAt s 0 = .fail e →
        exec .sampleAbs s = .next (spendLife 1 (drawn 1 (sent [[r1]]
          { s with results := s.results ++ [.transportError e] })))) ∧
      (∀ (x0 : List Byte) (e : BusError), completes s 2 → answerAt s 0 = .done x0 → answerAt s 1 = .fail e →
        exec .sampleAbs s = .next (spendLife 2 (drawn 2 (sent [[r1, r2]]
          { s with results := s.results ++ [.transportError e] })))) ∧
      (∀ (x0 x1 : List Byte) (e : BusError), completes s 3 →
        answerAt s 0 = .done x0 → answerAt s 1 = .done x1 → answerAt s 2 = .fail e →
        exec .sampleAbs s = .next (spendLife 3 (drawn 3 (sent [[r1, r2], [w1]]
          { s with results := s.results ++ [.transportError e] })))) ∧
      (∀ (x0 x1 x2 : List Byte) (e : BusError), completes s 4 →
        answerAt s 0 = .done x0 → answerAt s 1 = .done x1 → answerAt s 2 = .done x2 → answerAt s 3 = .fail e →
        exec .sampleAbs s = .next (spendLife 4 (drawn 4 (sent [[r1, r2], [w1, w2]]
          { s with results := s.results ++ [.transportError e] }))))) ∧
    (s.mode ≠ .absolute →
      exec .sampleAbs s = .next { s with refused := true, results := s.results ++ [.refused .modeMismatch] }) ∧
    ∀ (a : Addr) (arg : Byte), decodeRequest (0b110#3 ++ a ++ arg : Word) =
      if a = 0#5 ∧ arg = 0#8 then .ok .sampleAbs else .error .reservedField

/-- R111: SAMPLE.REL, as SAMPLE.ABS with four bytes and the relative layout; and its word. -/
def Obligations.SampleRelReadsDecodesClears : Prop :=
  ∀ (s : State) (r1 r2 w1 w2 : BusStep),
    r1 = .write [0xB2#8, 0xFC#8, 0xFC#8] → r2 = .xfer [0xFC#8, 0xFC#8, 0xFC#8, 0xFB#8] →
    w1 = .write [0x82#8, 0x00#8] → w2 = .delay 50 →
    (s.mode = .relative →
      (∀ (x0 x1 x2 x3 : List Byte) (b0 b1 b2 b3 : Byte), completes s 4 →
        answerAt s 0 = .done x0 → answerAt s 1 = .done x1 → answerAt s 2 = .done x2 → answerAt s 3 = .done x3 →
        Received (s.draws + 1) 4 x1 [b0, b1, b2, b3] →
        exec .sampleRel s = .next (spendLife 4 (drawn 4 (sent [[r1, r2], [w1, w2]]
          { s with rxbuf := [b0, b1, b2, b3]
                   results := s.results ++ [.ok (.relSample (decodeRel b0 b1 b2 b3))] })))) ∧
      (∀ e : BusError, completes s 1 → answerAt s 0 = .fail e →
        exec .sampleRel s = .next (spendLife 1 (drawn 1 (sent [[r1]]
          { s with results := s.results ++ [.transportError e] })))) ∧
      (∀ (x0 : List Byte) (e : BusError), completes s 2 → answerAt s 0 = .done x0 → answerAt s 1 = .fail e →
        exec .sampleRel s = .next (spendLife 2 (drawn 2 (sent [[r1, r2]]
          { s with results := s.results ++ [.transportError e] })))) ∧
      (∀ (x0 x1 : List Byte) (e : BusError), completes s 3 →
        answerAt s 0 = .done x0 → answerAt s 1 = .done x1 → answerAt s 2 = .fail e →
        exec .sampleRel s = .next (spendLife 3 (drawn 3 (sent [[r1, r2], [w1]]
          { s with results := s.results ++ [.transportError e] })))) ∧
      (∀ (x0 x1 x2 : List Byte) (e : BusError), completes s 4 →
        answerAt s 0 = .done x0 → answerAt s 1 = .done x1 → answerAt s 2 = .done x2 → answerAt s 3 = .fail e →
        exec .sampleRel s = .next (spendLife 4 (drawn 4 (sent [[r1, r2], [w1, w2]]
          { s with results := s.results ++ [.transportError e] }))))) ∧
    (s.mode ≠ .relative →
      exec .sampleRel s = .next { s with refused := true, results := s.results ++ [.refused .modeMismatch] }) ∧
    ∀ (a : Addr) (arg : Byte), decodeRequest (0b111#3 ++ a ++ arg : Word) =
      if a = 0#5 ∧ arg = 0#8 then .ok .sampleRel else .error .reservedField

/-- R83: RDPKT; DEC; CLRSTAT leaves the state SAMPLE leaves, but for the outcomes posted, and its decode posts the
sample SAMPLE posts, when every bus step succeeds. -/
def Obligations.SampleIsReadDecodeClear : Prop :=
  ∀ s : State, completes s 4 → (∀ k, k < 4 → ∃ bs, answerAt s k = .done bs) →
    (s.mode = .absolute → ∃ t1 t2 t3 t v,
      exec (.rdn 0x12#5 6#8) s = .next t1 ∧ exec .decabs t1 = .next t2 ∧ exec (.wrd 0x02#5 0x00#8) t2 = .next t3 ∧
      exec .sampleAbs s = .next t ∧ t2.results = t1.results ++ [.ok v] ∧ t.results = s.results ++ [.ok v] ∧
      t = { t3 with results := t.results }) ∧
    (s.mode = .relative → ∃ t1 t2 t3 t v,
      exec (.rdn 0x12#5 4#8) s = .next t1 ∧ exec .decrel t1 = .next t2 ∧ exec (.wrd 0x02#5 0x00#8) t2 = .next t3 ∧
      exec .sampleRel s = .next t ∧ t2.results = t1.results ++ [.ok v] ∧ t.results = s.results ++ [.ok v] ∧
      t = { t3 with results := t.results })

/-! ## Rules of the whole machine -/

/-- R18: no request writes MODE; a construction is the only event that loads it. (Construction as an offer: log 10.) -/
def Obligations.OnlyConstructionLoadsMode : Prop :=
  (∀ (i : Instr) (s t : State), exec i s = .next t → t.mode = s.mode) ∧
    ∀ s t : State, step s = .next t → t.mode = s.mode ∨ ∃ m rest, s.offers = .construct m :: rest ∧ t.mode = m

/-- R23: REFUSED is set by a refused request and by nothing else, cleared by construction and by nothing else, and no
request's outcome or bus traffic depends on it. (Construction as an offer: log 10.) -/
def Obligations.RefusedIsStickyAndUnread : Prop :=
  (∀ s t : State, step s = .next t →
    (∀ r, t.results = s.results ++ [.refused r] → t.refused = true) ∧
    (s.refused = false → t.refused = true → ∃ r, t.results = s.results ++ [.refused r]) ∧
    (s.refused = true → t.refused = false → ∃ m rest, s.offers = .construct m :: rest)) ∧
  ∀ (i : Instr) (s t : State) (b : Bool), exec i s = .next t →
    ∃ t', exec i { s with refused := b } = .next t' ∧ t'.results = t.results ∧ t'.wire = t.wire ∧ t'.rxbuf = t.rxbuf

/-- R24, R114: a request, decoded or not, ends in exactly one outcome, its `Ok` value of the request's type; nothing
else posts one. (That an idle step, a construction and a captured byte or release leave the outcomes posted as they are
is the model's choice, logs 9, 10 and 12.) -/
def Obligations.OneOutcomePerRequest : Prop :=
  (∀ (s t : State) (w : Word) (rest : List Offer), s.offers = .code (.request w) :: rest → step s = .next t →
    t.offers = rest ∧ ∃ r, t.results = s.results ++ [r]) ∧
  (∀ (i : Instr) (s t : State) (v : Value), exec i s = .next t → t.results = s.results ++ [.ok v] →
    valueFits i v t) ∧
  ∀ s t : State, step s = .next t → (∀ w rest, s.offers ≠ .code (.request w) :: rest) → t.results = s.results

/-- R117: a refused request sets REFUSED and posts its refusal, and changes nothing else: no byte, no delay, no draw. -/
def Obligations.RefusalHasNoOtherEffect : Prop :=
  ∀ (s t : State) (r : Reason), step s = .next t → t.results = s.results ++ [.refused r] →
    t = { s with offers := s.offers.tail, refused := true, results := s.results ++ [.refused r] }

/-- R88, R115, R116: a transport error is the first failing bus step's, unchanged, and leaves the block's state; the
steps after it are not run. -/
def Obligations.TransportErrorKeepsTheBlock : Prop :=
  ∀ (s t : State) (e : BusError), step s = .next t → t.results = s.results ++ [.transportError e] →
    t.mode = s.mode ∧ t.rxbuf = s.rxbuf ∧ t.refused = s.refused ∧
    ∃ k, t.draws = s.draws + k + 1 ∧ answerAt s k = .fail e ∧ ∀ j, j < k → ∃ bs, answerAt s j = .done bs

/-- R22, R88: only a read or a SAMPLE that ends in `Ok` writes the receive buffer. -/
def Obligations.OnlySuccessfulReadsWriteTheBuffer : Prop :=
  ∀ (i : Instr) (s t : State), exec i s = .next t → t.rxbuf ≠ s.rxbuf →
    ((∃ a, i = .rd1 a) ∨ (∃ a n, i = .rdn a n) ∨ i = .sampleAbs ∨ i = .sampleRel) ∧
      ∃ v, t.results = s.results ++ [.ok v]

/-- The frame of the framer requests: what RD1, RDN, WR and WRD leave. There is no memory; the receive buffer is
written by RD1 and RDN only. (That the bus monitor stays while a request sends bytes is the model's choice, log 12: it
is fed by offered bytes, not by the block's own wire.) -/
def Obligations.FramerFrame : Prop :=
  ∀ (i : Instr) (s t : State),
    ((∃ a, i = .rd1 a) ∨ (∃ a n, i = .rdn a n) ∨ (∃ a v, i = .wr a v) ∨ (∃ a v, i = .wrd a v)) →
    exec i s = .next t →
    t.mode = s.mode ∧ t.offers = s.offers ∧ t.capture = s.capture ∧ t.readings = s.readings ∧
    (i.WellFormed → t.refused = s.refused) ∧
    (((∃ a v, i = .wr a v) ∨ (∃ a v, i = .wrd a v)) → t.rxbuf = s.rxbuf)

/-- The frame of the codec requests: DECABS and DECREL write no state and touch no bus (R96, R108, R109); the SAMPLEs
write the receive buffer only (R110, R111). (That the bus monitor stays while a SAMPLE sends bytes is the model's choice,
log 12: it is fed by offered bytes, not by the block's own wire.) -/
def Obligations.CodecFrame : Prop :=
  ∀ (i : Instr) (s t : State), i = .decabs ∨ i = .decrel ∨ i = .sampleAbs ∨ i = .sampleRel → exec i s = .next t →
    t.mode = s.mode ∧ t.offers = s.offers ∧ t.capture = s.capture ∧ t.readings = s.readings ∧
    ((i = .decabs ∨ i = .decrel) → t.rxbuf = s.rxbuf ∧ t.wire = s.wire ∧ t.answers = s.answers ∧
      t.draws = s.draws ∧ t.busLife = s.busLife) ∧
    ((i = .sampleAbs ∧ s.mode = .absolute ∨ i = .sampleRel ∧ s.mode = .relative) → t.refused = s.refused)

/-- R54: a request puts at most two transactions on the wire, after all that came before, and draws one answer for each
bus step it ran, in order. -/
def Obligations.WireIsInIssueOrder : Prop :=
  ∀ (i : Instr) (s t : State), exec i s = .next t →
    ∃ ts : List Txn, t.wire = s.wire ++ ts ∧ ts.length ≤ 2 ∧
      t.draws = s.draws + ts.flatten.length ∧ t.answers = s.answers.drop ts.flatten.length

/-- R50, R135: whatever succeeds, other than WR to STATUS, waits the settle time after a status write; WR to STATUS
is not refused and does not wait. -/
def Obligations.StatusWritesSettleExceptWr : Prop :=
  (∀ (i : Instr) (s t : State) (x : Value), exec i s = .next t → t.results = s.results ++ [.ok x] →
    (∀ v, i ≠ .wr 0x02#5 v) → ∃ ts, t.wire = s.wire ++ ts ∧ ∀ y ∈ ts, settles y = true) ∧
  ∀ (s t : State) (v : Byte), exec (.wr 0x02#5 v) s = .next t →
    t.refused = s.refused ∧ ∃ y, t.wire = s.wire ++ [y] ∧ settles y = false

/-- R114: "the block never hangs on its own account": every request ends when the transport completes four more bus
steps, and when one does not end, the transport had completed every step before. -/
def Obligations.OnlyTheTransportStopsTheBlock : Prop :=
  (∀ (i : Instr) (s : State), completes s 4 → ∃ t, exec i s = .next t) ∧
  (∀ (i : Instr) (s : State) (r : Refusal), exec i s ≠ .refused r) ∧
  ∀ (i : Instr) (s : State) (f : Fault), exec i s = .fault f →
    i.isRequest = true ∧ ∃ life, s.busLife = some life ∧ life < 4 ∧ ∀ j, j < life → ∃ bs, answerAt s j = .done bs

/-- R114 (I9): a request that needs a bus step the transport never completes has no outcome. (The stop: log 7.) -/
def Obligations.StuckTransportStops : Prop :=
  ∀ (s : State) (a : Addr) (v : Byte) (n : Byte), s.busLife = some 0 → listed a = true → goodLength n = true →
    exec (.rd1 a) s = .fault .transportStuck ∧ exec (.rdn a n) s = .fault .transportStuck ∧
    exec (.wr a v) s = .fault .transportStuck ∧ exec (.wrd a v) s = .fault .transportStuck ∧
    (s.mode = .absolute → exec .sampleAbs s = .fault .transportStuck) ∧
    (s.mode = .relative → exec .sampleRel s = .fault .transportStuck)

/-- R49: bytes received in discarded positions (positions 1 to 3 of RD1, every position of a `Write` step) are never
read: two runs whose answers differ only there end alike. -/
def Obligations.DiscardedBytesAreNeverRead : Prop :=
  ∀ (s : State) (a : Addr) (v n : Byte) (rest : List Answer) (x0 x2 x3 y0 y2 y3 d : List Byte), listed a = true →
    (∀ b0 b1 b2 c0 c1 c2 v : Byte,
      exec (.rd1 a) { s with answers := .done [b0, b1, b2, v] :: rest } =
        exec (.rd1 a) { s with answers := .done [c0, c1, c2, v] :: rest }) ∧
    (goodLength n = true → exec (.rdn a n) { s with answers := .done x0 :: rest } =
      exec (.rdn a n) { s with answers := .done y0 :: rest }) ∧
    exec (.wr a v) { s with answers := .done x0 :: rest } = exec (.wr a v) { s with answers := .done y0 :: rest } ∧
    exec (.wrd a v) { s with answers := .done x0 :: .done x2 :: rest } =
      exec (.wrd a v) { s with answers := .done y0 :: .done y2 :: rest } ∧
    (s.mode = .absolute →
      exec .sampleAbs { s with answers := .done x0 :: .done d :: .done x2 :: .done x3 :: rest } =
        exec .sampleAbs { s with answers := .done y0 :: .done d :: .done y2 :: .done y3 :: rest }) ∧
    (s.mode = .relative →
      exec .sampleRel { s with answers := .done x0 :: .done d :: .done x2 :: .done x3 :: rest } =
        exec .sampleRel { s with answers := .done y0 :: .done d :: .done y2 :: .done y3 :: rest })

/-- R15, R31, R128: nothing but MODE, RXBUF, RXLEN and REFUSED persists from one request to the next. What was sent,
posted and monitored before changes nothing a request does: it adds the same transactions and the same outcome.
(That a request leaves the bus monitor as it is: the model's choice, log 12.) -/
def Obligations.NothingElsePersists : Prop :=
  ∀ (i : Instr) (s t : State), i.isRequest = true → exec i s = .next t →
    ∃ (ts : List Txn) (r : Result), t.wire = s.wire ++ ts ∧ t.results = s.results ++ [r] ∧
      ∀ (w : List Txn) (rs : List Result) (c : List WireRole) (m : List Reading) (os : List Offer),
        exec i { s with wire := w, results := rs, capture := c, readings := m, offers := os } =
          .next { t with wire := w ++ ts, results := rs ++ [r], capture := c, readings := m, offers := os }

/-- R19, R20, R77, R86, R87: every step keeps the machine's invariant: the receive buffer fits, every transaction on
the wire is a frame of the block or its steps up to a failing one, and the monitor takes each byte of the transaction
it captures by its position. (The monitor and the transaction it captures: the model's choice, logs 12 and 13.) -/
def Obligations.EveryStepKeepsTheInvariant : Prop :=
  ∀ s t : State, MachineInv s → step s = .next t → MachineInv t

/-- The invariant holds after reset. (That the wire and the capture are empty there is the model's choice, log 21 with
logs 11 and 12; that the receive buffer is, R33.) -/
def Obligations.ResetMeetsTheInvariant : Prop := MachineInv State.reset

/-- R77: in a state that meets the invariant, the first byte of every transaction on the wire is a write or a read
command of a listed address. -/
def Obligations.CommandPositionHoldsACommand : Prop :=
  ∀ (s : State) (t : Txn), MachineInv s → t ∈ s.wire →
    ∃ (c : Byte) (rest : List Byte), txnBytes t = c :: rest ∧ c.getLsbD 7 = true ∧ c.getLsbD 6 = false ∧
      listed (c.extractLsb' 0 5) = true

/-! ## The bus monitor -/

/-- R86, R128: offered the bytes of a request's frame one by one and then the release of chip-select, the monitor reads
the request back, and the block's state stays. (The monitor and the release: logs 12 and 13.) -/
def Obligations.MonitorReadsEveryFrameBack : Prop :=
  ∀ (s : State) (rest : List Offer) (t : Txn) (r : Reading), s.capture = [] →
    ((∃ a, t = readFrame a ∧ r = .readOne a) ∨
      (∃ a n, 1 ≤ n ∧ n ≤ Config.maxBlock ∧ t = blockFrame a n ∧ r = .readBlock a n) ∨
      (∃ a v, t = writeFrame a v ∧ r = .write a v) ∨ (∃ a v, t = delayedFrame a v ∧ r = .write a v)) →
    s.offers = (txnBytes t).map (fun b => .code (.wire b)) ++ .release :: rest →
    stepTimes ((txnBytes t).length + 1) s = .next { s with offers := rest, readings := s.readings ++ [r] }

/-- R45, R86: each transaction is read by itself. Whatever its bytes are, up to the release of chip-select, they give
one reading, which they alone decide, and the byte after the release is again the first of a transaction.
(The release: log 13.) -/
def Obligations.TransactionsAreReadApart : Prop :=
  ∀ bs : List Byte, bs ≠ [] → ∃ r : Reading, ∀ (s : State) (rest : List Offer), s.capture = [] →
    s.offers = bs.map (fun b => .code (.wire b)) ++ .release :: rest →
    stepTimes (bs.length + 1) s = .next { s with offers := rest, readings := s.readings ++ [r] }

/-- R45, R46, R86: a transaction that ends inside a frame of the block, as a failed one may, is read back as a broken-off
frame with the bytes there are, and the transaction after it is read as if nothing had come before. (How the monitor
reports it: log 14.) -/
def Obligations.BrokenOffFramesAreReadApart : Prop :=
  ∀ (s : State) (rest : List Offer) (f : Txn) (bs : List Byte), s.capture = [] →
    ((∃ a, f = readFrame a) ∨ (∃ a n, 1 ≤ n ∧ n ≤ Config.maxBlock ∧ f = blockFrame a n) ∨
      (∃ a v, f = writeFrame a v) ∨ (∃ a v, f = delayedFrame a v)) →
    bs <+: txnBytes f → bs ≠ [] → bs ≠ txnBytes f →
    s.offers = bs.map (fun b => .code (.wire b)) ++ .release :: rest →
    ∃ roles : List WireRole, roles.map WireRole.byte = bs ∧
      stepTimes (bs.length + 1) s = .next { s with offers := rest, readings := s.readings ++ [.brokenOff roles] }

/-- R45: the release of chip-select ends the transaction being captured with one reading; with none captured it changes
nothing. (The release as an offer: log 13.) -/
def Obligations.ReleaseEndsTheTransaction : Prop :=
  ∀ (s : State) (rest : List Offer), s.offers = .release :: rest →
    (s.capture = [] → step s = .next { s with offers := rest }) ∧
    (s.capture ≠ [] →
      ∃ r : Reading, step s = .next { s with offers := rest, capture := [], readings := s.readings ++ [r] })

/-- R73, R86: a command byte that is the first of a transaction opens a read or a write. (The monitor: log 12.) -/
def Obligations.CommandBytesOpenAFrame : Prop :=
  ∀ (s : State) (a : Addr), s.capture = [] →
    exec (.cmdWrite a) s = .next { s with capture := [.writeCommand a] } ∧
    exec (.cmdRead a) s = .next { s with capture := [.readCommand a] }

/-- R74, R75, R86: in a read the bytes after the command are markers, at every position, and a command byte there is
none. Released after three FILL it was a single read; after two CONT, k more and FILL, a block of k + 1 bytes.
(The monitor and the release: logs 12 and 13.) -/
def Obligations.MarkersPadARead : Prop :=
  ∀ (s : State) (a b : Addr) (roles : List WireRole) (k : Nat) (rest : List Offer),
    (s.capture = .readCommand a :: roles →
      exec .cont s = .next { s with capture := s.capture ++ [.cont] } ∧
      exec .fill s = .next { s with capture := s.capture ++ [.fill] } ∧
      exec (.cmdWrite b) s = .next { s with capture := s.capture ++ [.foreign (0x80#8 ||| b.setWidth 8)] } ∧
      exec (.cmdRead b) s = .next { s with capture := s.capture ++ [.foreign (0xA0#8 ||| b.setWidth 8)] }) ∧
    (s.offers = .release :: rest → s.capture = [.readCommand a, .fill, .fill, .fill] →
      step s = .next { s with offers := rest, capture := [], readings := s.readings ++ [.readOne a] }) ∧
    (s.offers = .release :: rest → k < Config.maxBlock →
      s.capture = .readCommand a :: .cont :: .cont :: (List.replicate k .cont ++ [.fill]) →
      step s = .next { s with offers := rest, capture := [], readings := s.readings ++ [.readBlock a (k + 1)] })

/-- R86: in a write the bytes after the command are data, even those that equal a marker or a command. Released after
one, it was a write of that byte. (The monitor and the release: logs 12 and 13.) -/
def Obligations.WriteDataMayEqualAMarker : Prop :=
  ∀ (s : State) (a b : Addr) (v : Byte) (roles : List WireRole) (rest : List Offer),
    (s.capture = .writeCommand a :: roles →
      exec .cont s = .next { s with capture := s.capture ++ [.data 0xFC#8] } ∧
      exec .fill s = .next { s with capture := s.capture ++ [.data 0xFB#8] } ∧
      exec (.cmdWrite b) s = .next { s with capture := s.capture ++ [.data (0x80#8 ||| b.setWidth 8)] } ∧
      exec (.cmdRead b) s = .next { s with capture := s.capture ++ [.data (0xA0#8 ||| b.setWidth 8)] }) ∧
    (s.offers = .release :: rest → s.capture = [.writeCommand a, .data v] →
      step s = .next { s with offers := rest, capture := [], readings := s.readings ++ [.write a v] })

/-- R86: a transaction whose first byte is no command was not sent by the block; the monitor says so of all its bytes,
commands and markers among them. (How it says so: log 14.) -/
def Obligations.ForeignFirstByteIsReported : Prop :=
  ∀ (s : State) (b : Byte) (bs : List Byte) (rest : List Offer), s.capture = [] →
    s.offers = (b :: bs).map (fun b => .code (.wire b)) ++ .release :: rest →
    b.extractLsb' 5 3 ≠ 0b100#3 → b.extractLsb' 5 3 ≠ 0b101#3 →
    stepTimes (bs.length + 2) s =
      .next { s with offers := rest, readings := s.readings ++ [.foreign ((b :: bs).map .foreign)] }

/-- R128: the monitor is no feature of the block. A wire byte always completes and changes the capture only, which grows
by that byte, in the role its position after the first byte captured gives it. (The monitor: log 12.) -/
def Obligations.WireBytesTouchOnlyTheMonitor : Prop :=
  ∀ (i : Instr) (s : State), i.isRequest = false →
    ∃ b : Byte, encode i = .wire b ∧ (byteRole s.capture.head? b).byte = b ∧
      exec i s = .next { s with capture := s.capture ++ [byteRole s.capture.head? b] }

/-! ## The assembler -/

/-- R82: "no refused word is ever assembled". -/
def Obligations.AssembledWordsAreNeverRefused : Prop :=
  ∀ (lines : List (List Char)) (codes : List Code), assemble lines = .ok codes →
    ∀ c ∈ codes, ∃ (w : Word) (i : Instr), c = .request w ∧ decodeRequest w = .ok i ∧ i.WellFormed

/-- R83: the pseudo-instructions and their words. -/
def Obligations.PseudoInstructionWords : Prop :=
  assemble ["RDSTAT".toList, "CLRSTAT".toList, "RDPKT.ABS".toList, "RDPKT.REL".toList] =
      .ok [.request 0x0200#16, .request 0x6200#16, .request 0x3206#16, .request 0x3204#16] ∧
    assemble ["RD1 STATUS".toList, "WRD STATUS, 0x00".toList, "RDN PKT0, 6".toList, "RDN PKT0, 4".toList] =
      .ok [.request 0x0200#16, .request 0x6200#16, .request 0x3206#16, .request 0x3204#16]
end

