-- ==== Sys2Proof/Laws/State.lean ====
section
/-! SUPPORT. For every update of State, what each field holds after it. -/

namespace Sys2Proof.Machine.State

/-! `post` -/
@[simp] theorem post_mode (r : Result) (s : State) : (s.post r).mode = s.mode := rfl
@[simp] theorem post_rxbuf (r : Result) (s : State) : (s.post r).rxbuf = s.rxbuf := rfl
@[simp] theorem post_refused (r : Result) (s : State) : (s.post r).refused = s.refused := rfl
@[simp] theorem post_results (r : Result) (s : State) : (s.post r).results = s.results ++ [r] := rfl
@[simp] theorem post_wire (r : Result) (s : State) : (s.post r).wire = s.wire := rfl
@[simp] theorem post_offers (r : Result) (s : State) : (s.post r).offers = s.offers := rfl
@[simp] theorem post_answers (r : Result) (s : State) : (s.post r).answers = s.answers := rfl
@[simp] theorem post_draws (r : Result) (s : State) : (s.post r).draws = s.draws := rfl
@[simp] theorem post_busLife (r : Result) (s : State) : (s.post r).busLife = s.busLife := rfl
@[simp] theorem post_capture (r : Result) (s : State) : (s.post r).capture = s.capture := rfl
@[simp] theorem post_readings (r : Result) (s : State) : (s.post r).readings = s.readings := rfl

/-! `returnOk` -/
@[simp] theorem returnOk_mode (v : Value) (s : State) : (s.returnOk v).mode = s.mode := rfl
@[simp] theorem returnOk_rxbuf (v : Value) (s : State) : (s.returnOk v).rxbuf = s.rxbuf := rfl
@[simp] theorem returnOk_refused (v : Value) (s : State) : (s.returnOk v).refused = s.refused := rfl
@[simp] theorem returnOk_results (v : Value) (s : State) : (s.returnOk v).results = s.results ++ [.ok v] := rfl
@[simp] theorem returnOk_wire (v : Value) (s : State) : (s.returnOk v).wire = s.wire := rfl
@[simp] theorem returnOk_offers (v : Value) (s : State) : (s.returnOk v).offers = s.offers := rfl
@[simp] theorem returnOk_answers (v : Value) (s : State) : (s.returnOk v).answers = s.answers := rfl
@[simp] theorem returnOk_draws (v : Value) (s : State) : (s.returnOk v).draws = s.draws := rfl
@[simp] theorem returnOk_busLife (v : Value) (s : State) : (s.returnOk v).busLife = s.busLife := rfl
@[simp] theorem returnOk_capture (v : Value) (s : State) : (s.returnOk v).capture = s.capture := rfl
@[simp] theorem returnOk_readings (v : Value) (s : State) : (s.returnOk v).readings = s.readings := rfl

/-! `raiseError` -/
@[simp] theorem raiseError_mode (e : BusError) (s : State) : (s.raiseError e).mode = s.mode := rfl
@[simp] theorem raiseError_rxbuf (e : BusError) (s : State) : (s.raiseError e).rxbuf = s.rxbuf := rfl
@[simp] theorem raiseError_refused (e : BusError) (s : State) : (s.raiseError e).refused = s.refused := rfl
@[simp] theorem raiseError_results (e : BusError) (s : State) : (s.raiseError e).results = s.results ++ [.transportError e] := rfl
@[simp] theorem raiseError_wire (e : BusError) (s : State) : (s.raiseError e).wire = s.wire := rfl
@[simp] theorem raiseError_offers (e : BusError) (s : State) : (s.raiseError e).offers = s.offers := rfl
@[simp] theorem raiseError_answers (e : BusError) (s : State) : (s.raiseError e).answers = s.answers := rfl
@[simp] theorem raiseError_draws (e : BusError) (s : State) : (s.raiseError e).draws = s.draws := rfl
@[simp] theorem raiseError_busLife (e : BusError) (s : State) : (s.raiseError e).busLife = s.busLife := rfl
@[simp] theorem raiseError_capture (e : BusError) (s : State) : (s.raiseError e).capture = s.capture := rfl
@[simp] theorem raiseError_readings (e : BusError) (s : State) : (s.raiseError e).readings = s.readings := rfl

/-! `refuse` -/
@[simp] theorem refuse_mode (r : Reason) (s : State) : (s.refuse r).mode = s.mode := rfl
@[simp] theorem refuse_rxbuf (r : Reason) (s : State) : (s.refuse r).rxbuf = s.rxbuf := rfl
@[simp] theorem refuse_refused (r : Reason) (s : State) : (s.refuse r).refused = true := rfl
@[simp] theorem refuse_results (r : Reason) (s : State) : (s.refuse r).results = s.results ++ [.refused r] := rfl
@[simp] theorem refuse_wire (r : Reason) (s : State) : (s.refuse r).wire = s.wire := rfl
@[simp] theorem refuse_offers (r : Reason) (s : State) : (s.refuse r).offers = s.offers := rfl
@[simp] theorem refuse_answers (r : Reason) (s : State) : (s.refuse r).answers = s.answers := rfl
@[simp] theorem refuse_draws (r : Reason) (s : State) : (s.refuse r).draws = s.draws := rfl
@[simp] theorem refuse_busLife (r : Reason) (s : State) : (s.refuse r).busLife = s.busLife := rfl
@[simp] theorem refuse_capture (r : Reason) (s : State) : (s.refuse r).capture = s.capture := rfl
@[simp] theorem refuse_readings (r : Reason) (s : State) : (s.refuse r).readings = s.readings := rfl

/-! `setRxbuf` -/
@[simp] theorem setRxbuf_mode (bs : List Byte) (s : State) : (s.setRxbuf bs).mode = s.mode := rfl
@[simp] theorem setRxbuf_rxbuf (bs : List Byte) (s : State) : (s.setRxbuf bs).rxbuf = bs := rfl
@[simp] theorem setRxbuf_refused (bs : List Byte) (s : State) : (s.setRxbuf bs).refused = s.refused := rfl
@[simp] theorem setRxbuf_results (bs : List Byte) (s : State) : (s.setRxbuf bs).results = s.results := rfl
@[simp] theorem setRxbuf_wire (bs : List Byte) (s : State) : (s.setRxbuf bs).wire = s.wire := rfl
@[simp] theorem setRxbuf_offers (bs : List Byte) (s : State) : (s.setRxbuf bs).offers = s.offers := rfl
@[simp] theorem setRxbuf_answers (bs : List Byte) (s : State) : (s.setRxbuf bs).answers = s.answers := rfl
@[simp] theorem setRxbuf_draws (bs : List Byte) (s : State) : (s.setRxbuf bs).draws = s.draws := rfl
@[simp] theorem setRxbuf_busLife (bs : List Byte) (s : State) : (s.setRxbuf bs).busLife = s.busLife := rfl
@[simp] theorem setRxbuf_capture (bs : List Byte) (s : State) : (s.setRxbuf bs).capture = s.capture := rfl
@[simp] theorem setRxbuf_readings (bs : List Byte) (s : State) : (s.setRxbuf bs).readings = s.readings := rfl

/-! `withOffers` -/
@[simp] theorem withOffers_mode (os : List Offer) (s : State) : (s.withOffers os).mode = s.mode := rfl
@[simp] theorem withOffers_rxbuf (os : List Offer) (s : State) : (s.withOffers os).rxbuf = s.rxbuf := rfl
@[simp] theorem withOffers_refused (os : List Offer) (s : State) : (s.withOffers os).refused = s.refused := rfl
@[simp] theorem withOffers_results (os : List Offer) (s : State) : (s.withOffers os).results = s.results := rfl
@[simp] theorem withOffers_wire (os : List Offer) (s : State) : (s.withOffers os).wire = s.wire := rfl
@[simp] theorem withOffers_offers (os : List Offer) (s : State) : (s.withOffers os).offers = os := rfl
@[simp] theorem withOffers_answers (os : List Offer) (s : State) : (s.withOffers os).answers = s.answers := rfl
@[simp] theorem withOffers_draws (os : List Offer) (s : State) : (s.withOffers os).draws = s.draws := rfl
@[simp] theorem withOffers_busLife (os : List Offer) (s : State) : (s.withOffers os).busLife = s.busLife := rfl
@[simp] theorem withOffers_capture (os : List Offer) (s : State) : (s.withOffers os).capture = s.capture := rfl
@[simp] theorem withOffers_readings (os : List Offer) (s : State) : (s.withOffers os).readings = s.readings := rfl

/-! `construct` -/
@[simp] theorem construct_mode (m : Mode) (s : State) : (s.construct m).mode = m := rfl
@[simp] theorem construct_rxbuf (m : Mode) (s : State) : (s.construct m).rxbuf = [] := rfl
@[simp] theorem construct_refused (m : Mode) (s : State) : (s.construct m).refused = false := rfl
@[simp] theorem construct_results (m : Mode) (s : State) : (s.construct m).results = s.results := rfl
@[simp] theorem construct_wire (m : Mode) (s : State) : (s.construct m).wire = s.wire := rfl
@[simp] theorem construct_offers (m : Mode) (s : State) : (s.construct m).offers = s.offers := rfl
@[simp] theorem construct_answers (m : Mode) (s : State) : (s.construct m).answers = s.answers := rfl
@[simp] theorem construct_draws (m : Mode) (s : State) : (s.construct m).draws = s.draws := rfl
@[simp] theorem construct_busLife (m : Mode) (s : State) : (s.construct m).busLife = s.busLife := rfl
@[simp] theorem construct_capture (m : Mode) (s : State) : (s.construct m).capture = s.capture := rfl
@[simp] theorem construct_readings (m : Mode) (s : State) : (s.construct m).readings = s.readings := rfl

/-! `afterTxn` -/
@[simp] theorem afterTxn_mode (t : Txn) (s : State) : (s.afterTxn t).mode = s.mode := rfl
@[simp] theorem afterTxn_rxbuf (t : Txn) (s : State) : (s.afterTxn t).rxbuf = s.rxbuf := rfl
@[simp] theorem afterTxn_refused (t : Txn) (s : State) : (s.afterTxn t).refused = s.refused := rfl
@[simp] theorem afterTxn_results (t : Txn) (s : State) : (s.afterTxn t).results = s.results := rfl
@[simp] theorem afterTxn_wire (t : Txn) (s : State) : (s.afterTxn t).wire = s.wire ++ [(runSteps t s.answers s.draws).sent] := rfl
@[simp] theorem afterTxn_offers (t : Txn) (s : State) : (s.afterTxn t).offers = s.offers := rfl
@[simp] theorem afterTxn_answers (t : Txn) (s : State) : (s.afterTxn t).answers = (runSteps t s.answers s.draws).answers := rfl
@[simp] theorem afterTxn_draws (t : Txn) (s : State) : (s.afterTxn t).draws = (runSteps t s.answers s.draws).draws := rfl
@[simp] theorem afterTxn_busLife (t : Txn) (s : State) : (s.afterTxn t).busLife = s.busLife := rfl
@[simp] theorem afterTxn_capture (t : Txn) (s : State) : (s.afterTxn t).capture = s.capture := rfl
@[simp] theorem afterTxn_readings (t : Txn) (s : State) : (s.afterTxn t).readings = s.readings := rfl

/-! `monitorByte` -/
@[simp] theorem monitorByte_mode (b : Byte) (s : State) : (s.monitorByte b).mode = s.mode := rfl
@[simp] theorem monitorByte_rxbuf (b : Byte) (s : State) : (s.monitorByte b).rxbuf = s.rxbuf := rfl
@[simp] theorem monitorByte_refused (b : Byte) (s : State) : (s.monitorByte b).refused = s.refused := rfl
@[simp] theorem monitorByte_results (b : Byte) (s : State) : (s.monitorByte b).results = s.results := rfl
@[simp] theorem monitorByte_wire (b : Byte) (s : State) : (s.monitorByte b).wire = s.wire := rfl
@[simp] theorem monitorByte_offers (b : Byte) (s : State) : (s.monitorByte b).offers = s.offers := rfl
@[simp] theorem monitorByte_answers (b : Byte) (s : State) : (s.monitorByte b).answers = s.answers := rfl
@[simp] theorem monitorByte_draws (b : Byte) (s : State) : (s.monitorByte b).draws = s.draws := rfl
@[simp] theorem monitorByte_busLife (b : Byte) (s : State) : (s.monitorByte b).busLife = s.busLife := rfl
@[simp] theorem monitorByte_capture (b : Byte) (s : State) :
    (s.monitorByte b).capture = s.capture ++ [byteRole s.capture.head? b] := rfl
@[simp] theorem monitorByte_readings (b : Byte) (s : State) : (s.monitorByte b).readings = s.readings := rfl

/-! `monitorRelease` -/
@[simp] theorem monitorRelease_mode (s : State) : s.monitorRelease.mode = s.mode := by
  unfold State.monitorRelease; split <;> rfl
@[simp] theorem monitorRelease_rxbuf (s : State) : s.monitorRelease.rxbuf = s.rxbuf := by
  unfold State.monitorRelease; split <;> rfl
@[simp] theorem monitorRelease_refused (s : State) : s.monitorRelease.refused = s.refused := by
  unfold State.monitorRelease; split <;> rfl
@[simp] theorem monitorRelease_results (s : State) : s.monitorRelease.results = s.results := by
  unfold State.monitorRelease; split <;> rfl
@[simp] theorem monitorRelease_wire (s : State) : s.monitorRelease.wire = s.wire := by
  unfold State.monitorRelease; split <;> rfl
@[simp] theorem monitorRelease_offers (s : State) : s.monitorRelease.offers = s.offers := by
  unfold State.monitorRelease; split <;> rfl
@[simp] theorem monitorRelease_answers (s : State) : s.monitorRelease.answers = s.answers := by
  unfold State.monitorRelease; split <;> rfl
@[simp] theorem monitorRelease_draws (s : State) : s.monitorRelease.draws = s.draws := by
  unfold State.monitorRelease; split <;> rfl
@[simp] theorem monitorRelease_busLife (s : State) : s.monitorRelease.busLife = s.busLife := by
  unfold State.monitorRelease; split <;> rfl
@[simp] theorem monitorRelease_capture (s : State) : s.monitorRelease.capture = [] := by
  unfold State.monitorRelease; split <;> simp_all

end Sys2Proof.Machine.State
end

