-- ==== Sys2Proof/Laws/Bus.lean ====
section
/-! SUPPORT. What a bus transaction can do (R41 to R46), said once: its run steps, its reply, the answers it draws. -/

namespace Sys2Proof.Laws

open Sys2Proof.Machine

/-! Received bytes (R42). -/

@[simp] theorem length_receiveBytes (draw k n : Nat) (bs : List Byte) : (receiveBytes draw k n bs).length = n := by
  induction n generalizing k bs with
  | zero => rfl
  | succ n ih => cases bs <;> simp [receiveBytes, ih]

/-- The byte in position `j` is the answer's, where it lists one, else a free value. -/
theorem receiveBytes_getD (draw k n j : Nat) (bs : List Byte) (d : Byte) (h : j < n) :
    (receiveBytes draw k n bs).getD j d = bs.getD j (Config.freeByte draw (k + j)) := by
  induction n generalizing k j bs with
  | zero => omega
  | succ n ih =>
    cases bs with
    | nil =>
      cases j with
      | zero => simp [receiveBytes]
      | succ j =>
        have := ih (k + 1) j [] (by omega)
        simp only [receiveBytes, List.getD_cons_succ, List.getD_nil] at this ⊢
        rw [this]; congr 1; omega
    | cons b bs =>
      cases j with
      | zero => simp [receiveBytes]
      | succ j =>
        have := ih (k + 1) j bs (by omega)
        simp only [receiveBytes, List.getD_cons_succ] at this ⊢
        rw [this]; congr 2; omega

/-- An answer that lists exactly the exchanged bytes is received as it is. -/
theorem receiveBytes_eq (draw k : Nat) (bs : List Byte) : receiveBytes draw k bs.length bs = bs := by
  induction bs generalizing k with
  | nil => rfl
  | cons b bs ih => simp [receiveBytes, ih]

/-! Running the steps. -/

@[simp] theorem runSteps_nil (answers : List Answer) (draws : Nat) :
    runSteps [] answers draws = { sent := [], reply := .ok [], answers := answers, draws := draws } := rfl

/-- A failing step is the last one run, and its error is the reply (R46). -/
theorem runSteps_fail {answers : List Answer} {draws : Nat} {e : BusError} (st : BusStep) (sts : List BusStep)
    (h : drawAnswer answers draws = .fail e) :
    runSteps (st :: sts) answers draws =
      { sent := [st], reply := .err e, answers := answers.tail, draws := draws + 1 } := by
  simp [runSteps, h]

/-- A completed step is followed by the rest of the transaction (R45). -/
theorem runSteps_done {answers : List Answer} {draws : Nat} {bs : List Byte} (st : BusStep) (sts : List BusStep)
    (h : drawAnswer answers draws = .done bs) :
    runSteps (st :: sts) answers draws =
      { runSteps sts answers.tail (draws + 1) with
        sent := st :: (runSteps sts answers.tail (draws + 1)).sent
        reply := (runSteps sts answers.tail (draws + 1)).reply.push (st.received draws bs) } := by
  simp [runSteps, h]

@[simp] theorem drawAnswer_cons (a : Answer) (answers : List Answer) (draws : Nat) :
    drawAnswer (a :: answers) draws = a := rfl

@[simp] theorem drawAnswer_nil (draws : Nat) : drawAnswer [] draws = Config.freeAnswer draws := rfl

@[simp] theorem push_ok (l ins : List (List Byte)) : (BusReply.ok ins).push l = .ok (l ++ ins) := rfl
@[simp] theorem push_err (l : List (List Byte)) (e : BusError) : (BusReply.err e).push l = .err e := rfl

/-- The steps run are the first ones of the transaction, in order. -/
theorem runSteps_sent_prefix (t : Txn) (answers : List Answer) (draws : Nat) :
    (runSteps t answers draws).sent <+: t := by
  induction t generalizing answers draws with
  | nil => simp
  | cons st sts ih =>
    cases h : drawAnswer answers draws with
    | fail e => simp [runSteps_fail st sts h]
    | done bs => simpa [runSteps_done st sts h] using ih answers.tail (draws + 1)

/-- A transaction that has a step runs at least one. -/
theorem runSteps_sent_ne_nil {t : Txn} (ht : t ≠ []) (answers : List Answer) (draws : Nat) :
    (runSteps t answers draws).sent ≠ [] := by
  cases t with
  | nil => exact absurd rfl ht
  | cons st sts =>
    cases h : drawAnswer answers draws with
    | fail e => simp [runSteps_fail st sts h]
    | done bs => simp [runSteps_done st sts h]

/-- Every step run draws one answer. -/
theorem runSteps_draws (t : Txn) (answers : List Answer) (draws : Nat) :
    (runSteps t answers draws).draws = draws + (runSteps t answers draws).sent.length := by
  induction t generalizing answers draws with
  | nil => simp
  | cons st sts ih =>
    cases h : drawAnswer answers draws with
    | fail e => simp [runSteps_fail st sts h]
    | done bs => simp [runSteps_done st sts h, ih answers.tail (draws + 1)]; omega

/-- The answers drawn are the first of those to come. -/
theorem runSteps_answers (t : Txn) (answers : List Answer) (draws : Nat) :
    (runSteps t answers draws).answers = answers.drop (runSteps t answers draws).sent.length := by
  induction t generalizing answers draws with
  | nil => simp
  | cons st sts ih =>
    cases h : drawAnswer answers draws with
    | fail e => simp [runSteps_fail st sts h]
    | done bs => simp [runSteps_done st sts h, ih answers.tail (draws + 1)]

/-- A transaction that succeeds has run all its steps. -/
theorem runSteps_sent_of_ok {t : Txn} {answers : List Answer} {draws : Nat} {ins : List (List Byte)}
    (h : (runSteps t answers draws).reply = .ok ins) : (runSteps t answers draws).sent = t := by
  induction t generalizing answers draws ins with
  | nil => simp
  | cons st sts ih =>
    cases ha : drawAnswer answers draws with
    | fail e => simp [runSteps_fail st sts ha] at h
    | done bs =>
      rw [runSteps_done st sts ha] at h ⊢
      cases hr : (runSteps sts answers.tail (draws + 1)).reply with
      | ok ins' => simp [ih hr]
      | err e => simp [hr] at h

/-- How many bytes a transaction captures: those its `Xfer` steps send (R42). -/
def captured (t : Txn) : Nat :=
  match t with
  | [] => 0
  | .xfer out :: sts => out.length + captured sts
  | .write _ :: sts => captured sts
  | .delay _ :: sts => captured sts

/-- A transaction that succeeds returns as many bytes as its `Xfer` steps send. -/
theorem length_flatten_of_ok {t : Txn} {answers : List Answer} {draws : Nat} {ins : List (List Byte)}
    (h : (runSteps t answers draws).reply = .ok ins) : ins.flatten.length = captured t := by
  induction t generalizing answers draws ins with
  | nil => simp at h; subst h; rfl
  | cons st sts ih =>
    cases ha : drawAnswer answers draws with
    | fail e => simp [runSteps_fail st sts ha] at h
    | done bs =>
      rw [runSteps_done st sts ha] at h
      cases hr : (runSteps sts answers.tail (draws + 1)).reply with
      | err e => simp [hr] at h
      | ok ins' =>
        simp [hr] at h
        subst h
        have := ih hr
        simp only [List.length_flatten] at this
        cases st <;> simp [BusStep.received, captured, this]

/-- Everything `BusTxn` can do: it succeeds, all steps run, and the request goes on; or a step fails, the steps run
are a beginning of the transaction, and the request ends in that error. -/
theorem busTxn_cases (s : State) (t : Txn) (k : List (List Byte) → State → State) :
    (∃ ins, s.busReply t = .ok ins ∧ ins.flatten.length = captured t ∧
        (runSteps t s.answers s.draws).sent = t ∧ s.busTxn t k = k ins (s.afterTxn t)) ∨
      (∃ e, s.busReply t = .err e ∧ s.busTxn t k = (s.afterTxn t).raiseError e) := by
  cases h : s.busReply t with
  | ok ins => exact .inl ⟨ins, rfl, length_flatten_of_ok h, runSteps_sent_of_ok h, by simp [State.busTxn, h]⟩
  | err e => exact .inr ⟨e, rfl, by simp [State.busTxn, h]⟩

@[simp] theorem length_blockPadding (n : Nat) (h : 1 ≤ n) : (blockPadding n).length = n := by
  simp [blockPadding]; omega

@[simp] theorem captured_readFrame (a : Addr) : captured (readFrame a) = 4 := rfl
@[simp] theorem captured_writeFrame (a : Addr) (v : Byte) : captured (writeFrame a v) = 0 := rfl
@[simp] theorem captured_delayedFrame (a : Addr) (v : Byte) : captured (delayedFrame a v) = 0 := rfl
theorem captured_blockFrame (a : Addr) {n : Nat} (h : 1 ≤ n) : captured (blockFrame a n) = n := by
  simp [captured, blockFrame, h]

end Sys2Proof.Laws
end

