-- ==== Sys2Proof/Laws/Step.lean ====
section
/-! SUPPORT. What a request and a step can do, said once: the stop, the checks before the bus, the two transactions of
a SAMPLE, the monitor, and the step's four offers. -/

namespace Sys2Proof.Laws

open Sys2Proof.Machine Sys2Proof.Safety

/-- A request that ends does so in its own state, less the bus steps it used up (R114). -/
theorem finish_next {s t u : State} (h : finish s t = .next u) : ∃ life, u = { t with busLife := life } := by
  unfold finish at h
  split at h
  · cases h; exact ⟨_, rfl⟩
  · split at h
    · cases h; exact ⟨_, rfl⟩
    · cases h

/-- Where the transport completes the steps a request ran, the request ends. -/
theorem finish_completes {s t : State} {k : Nat} (hk : t.draws - s.draws = k) (hl : t.busLife = s.busLife)
    (h : completes s k) : finish s t = .next (spendLife k t) := by
  unfold finish
  split
  · next h0 => simp [spendLife, hl, h0]; rw [← hl] at h0; cases t; simp_all
  · next life h0 => simp [hk, h _ h0, spendLife, hl, h0]

/-- Where it does not, the machine is stuck (R114). -/
theorem finish_stuck {s t : State} {life : Nat} (h0 : s.busLife = some life) (h : life < t.draws - s.draws) :
    finish s t = .fault .transportStuck := by
  simp [finish, h0, Nat.not_le.mpr h]

/-- A request is refused for its operands, or runs (R117). -/
theorem checked_cases (s : State) (i : Instr) (run : State → State) :
    (∃ r, i.operandFault = some r ∧ s.checked i run = s.refuse r) ∨
      (i.WellFormed ∧ s.checked i run = run s) := by
  cases h : i.operandFault with
  | none => exact .inr ⟨h, by simp [State.checked, h]⟩
  | some r => exact .inl ⟨r, rfl, by simp [State.checked, h]⟩

theorem checked_of_wellFormed {i : Instr} (h : i.WellFormed) (s : State) (run : State → State) :
    s.checked i run = run s := by
  simp [State.checked, h]

/-- A codec request is refused for the mode, or runs (R108 to R111). -/
theorem inMode_cases (s : State) (m : Mode) (run : State → State) :
    (s.mode ≠ m ∧ s.inMode m run = s.refuse .modeMismatch) ∨ (s.mode = m ∧ s.inMode m run = run s) := by
  by_cases h : s.mode = m
  · exact .inr ⟨h, by simp [State.inMode, h]⟩
  · exact .inl ⟨h, by simp [State.inMode, h]⟩

/-- DECABS on the buffer returns the sample of its first six bytes, or is refused (R108). -/
theorem decodeBufferAbs_cases (s : State) :
    (∃ b0 b1 b2 b3 b4 b5 bs, s.rxbuf = b0 :: b1 :: b2 :: b3 :: b4 :: b5 :: bs ∧
        s.decodeBufferAbs = s.returnOk (.absSample (decodeAbs b0 b1 b2 b3 b4 b5))) ∨
      (s.rxlen < 6 ∧ s.decodeBufferAbs = s.refuse .unwrittenBuffer) := by
  unfold State.decodeBufferAbs State.rxlen
  split
  · next h => exact .inl ⟨_, _, _, _, _, _, _, h, rfl⟩
  · next h =>
    refine .inr ⟨?_, rfl⟩
    rcases hb : s.rxbuf with _ | ⟨b0, _ | ⟨b1, _ | ⟨b2, _ | ⟨b3, _ | ⟨b4, _ | ⟨b5, bs⟩⟩⟩⟩⟩⟩
    all_goals first | (simp; done) | exact absurd hb (h _ _ _ _ _ _ _)

/-- DECREL on the buffer returns the sample of its first four bytes, or is refused (R109). -/
theorem decodeBufferRel_cases (s : State) :
    (∃ b0 b1 b2 b3 bs, s.rxbuf = b0 :: b1 :: b2 :: b3 :: bs ∧
        s.decodeBufferRel = s.returnOk (.relSample (decodeRel b0 b1 b2 b3))) ∨
      (s.rxlen < 4 ∧ s.decodeBufferRel = s.refuse .unwrittenBuffer) := by
  unfold State.decodeBufferRel State.rxlen
  split
  · next h => exact .inl ⟨_, _, _, _, _, h, rfl⟩
  · next h =>
    refine .inr ⟨?_, rfl⟩
    rcases hb : s.rxbuf with _ | ⟨b0, _ | ⟨b1, _ | ⟨b2, _ | ⟨b3, bs⟩⟩⟩⟩
    all_goals first | (simp; done) | exact absurd hb (h _ _ _ _ _)

/-- Everything a SAMPLE can do once its mode is right (R110, R111): both transactions succeed and the bytes are
committed; the read fails and no clear is sent; or the clear fails and the sample is lost. -/
theorem sample_cases (s : State) (n : Nat) (hn : 1 ≤ n) (f : (Nat → Byte) → Value) :
    (∃ ins, s.busReply (blockFrame Reg.pkt0 n) = .ok ins ∧ ins.flatten.length = n ∧
        (∃ ins', (s.afterTxn (blockFrame Reg.pkt0 n)).busReply clearFrame = .ok ins') ∧
        s.sample n f =
          (((s.afterTxn (blockFrame Reg.pkt0 n)).afterTxn clearFrame).setRxbuf ins.flatten).returnOk
            (f (s.inByte ins.flatten))) ∨
      (∃ e, s.busReply (blockFrame Reg.pkt0 n) = .err e ∧
        s.sample n f = (s.afterTxn (blockFrame Reg.pkt0 n)).raiseError e) ∨
      (∃ ins e, s.busReply (blockFrame Reg.pkt0 n) = .ok ins ∧
        (s.afterTxn (blockFrame Reg.pkt0 n)).busReply clearFrame = .err e ∧
        s.sample n f = ((s.afterTxn (blockFrame Reg.pkt0 n)).afterTxn clearFrame).raiseError e) := by
  unfold State.sample
  obtain ⟨ins, hr, hlen, -, he⟩ | ⟨e, hr, he⟩ := busTxn_cases s (blockFrame Reg.pkt0 n)
    (fun ins t => t.busTxn clearFrame fun _ u =>
      (u.setRxbuf ins.flatten).returnOk (f (s.inByte ins.flatten)))
  · rw [captured_blockFrame _ hn] at hlen
    obtain ⟨ins', hr', -, -, he'⟩ | ⟨e, hr', he'⟩ := busTxn_cases (s.afterTxn (blockFrame Reg.pkt0 n)) clearFrame
      (fun _ u => (u.setRxbuf ins.flatten).returnOk (f (s.inByte ins.flatten)))
    · exact .inl ⟨ins, hr, hlen, ⟨ins', hr'⟩, he.trans he'⟩
    · exact .inr (.inr ⟨ins, e, hr, hr', he.trans he'⟩)
  · exact .inr (.inl ⟨e, hr, he⟩)

/-- A byte 100aaaaa is the write command of its low bits (R73). -/
theorem writeCmd_extract : ∀ {b : Byte}, b.extractLsb' 5 3 = 0b100#3 → writeCmd (b.extractLsb' 0 5) = b := by decide

/-- A byte 101aaaaa is the read command of its low bits (R73). -/
theorem readCmd_extract : ∀ {b : Byte}, b.extractLsb' 5 3 = 0b101#3 → readCmd (b.extractLsb' 0 5) = b := by decide

/-- A byte is the one its role stands for, at every position (R73, R74, R86). -/
@[simp] theorem byteRole_byte (first : Option WireRole) (b : Byte) : (byteRole first b).byte = b := by
  unfold byteRole
  split
  · split
    · next h => exact writeCmd_extract h
    · split
      · next h => exact readCmd_extract h
      · rfl
  · rfl
  · split
    · next h => exact h.symm
    · split
      · next h => exact h.symm
      · rfl
  all_goals rfl

/-! The role of each byte the block sends, by position (R73 to R75, R86). -/

@[simp] theorem byteRole_writeCmd : ∀ a : Addr, byteRole none (writeCmd a) = .writeCommand a := by decide
@[simp] theorem byteRole_readCmd : ∀ a : Addr, byteRole none (readCmd a) = .readCommand a := by decide
@[simp] theorem byteRole_data (a : Addr) (v : Byte) : byteRole (some (.writeCommand a)) v = .data v := rfl
@[simp] theorem byteRole_cont (a : Addr) : byteRole (some (.readCommand a)) contByte = .cont := rfl
@[simp] theorem byteRole_fill (a : Addr) : byteRole (some (.readCommand a)) fillByte = .fill := rfl

/-- In a transaction that no command opened, no byte is the block's (R77, R86). -/
@[simp] theorem byteRole_foreign (b c : Byte) : byteRole (some (.foreign b)) c = .foreign c := rfl

/-- One more byte of a transaction has the role its first byte gives it (R86). -/
theorem wireRoles_concat (bs : List Byte) (b : Byte) :
    wireRoles (bs ++ [b]) = wireRoles bs ++ [byteRole (wireRoles bs).head? b] := by
  cases bs <;> simp [wireRoles]

@[simp] theorem wireRoles_bytes (bs : List Byte) : (wireRoles bs).map WireRole.byte = bs := by
  cases bs with
  | nil => rfl
  | cons c bs => simp [wireRoles, Function.comp_def]

/-- Released with no byte captured, chip-select changes nothing; otherwise the transaction is read back (R45, R86). -/
theorem monitorRelease_cases (s : State) :
    (s.capture = [] ∧ s.monitorRelease = s) ∨
      (s.capture ≠ [] ∧ s.monitorRelease = { s with capture := [], readings := s.readings ++ [readBack s.capture] }) := by
  unfold State.monitorRelease
  split
  · next h => exact .inl ⟨h, rfl⟩
  · next h => exact .inr ⟨by simp [h], by simp [h]⟩

/-- Everything a step can do: nothing is offered and the state stays; a construction; a release of chip-select on the
captured bus; an instruction; a rejected code. -/
theorem step_cases (s : State) :
    (s.offers = [] ∧ step s = .next s) ∨
      (∃ m rest, s.offers = .construct m :: rest ∧ step s = .next ((s.withOffers rest).construct m)) ∨
      (∃ rest, s.offers = .release :: rest ∧ step s = .next (s.withOffers rest).monitorRelease) ∨
      (∃ c i rest, s.offers = .code c :: rest ∧ decode c = .ok i ∧ step s = exec i (s.withOffers rest)) ∨
      (∃ c r rest, s.offers = .code c :: rest ∧ decode c = .error r ∧
        step s = .next ((s.withOffers rest).rejectCode r)) := by
  rcases h : s.offers with _ | ⟨o, rest⟩
  · exact .inl ⟨rfl, by simp [step, h]⟩
  · cases o with
    | construct m => exact .inr (.inl ⟨m, rest, rfl, by simp [step, h]⟩)
    | release => exact .inr (.inr (.inl ⟨rest, rfl, by simp [step, h]⟩))
    | code c =>
      cases hd : decode c with
      | ok i => exact .inr (.inr (.inr (.inl ⟨c, i, rest, rfl, hd, by simp [step, h, hd]⟩)))
      | error r => exact .inr (.inr (.inr (.inr ⟨c, r, rest, rfl, hd, by simp [step, h, hd]⟩)))

end Sys2Proof.Laws
end

