-- ==== Sys2Proof/Laws/Answers.lean ====
section
/-! SUPPORT. Transactions in the terms statements use: the answers from now on (`answerAt`), what has been drawn and
sent (`drawn`, `sent`), and the received bytes (`Received`). -/

namespace Sys2Proof.Laws

open Sys2Proof.Machine Sys2Proof.Safety

/-! Commands and markers (R73, R74). -/

theorem writeCmd_eq (a : Addr) : writeCmd a = 0x80#8 ||| a.setWidth 8 := by revert a; decide
theorem readCmd_eq (a : Addr) : readCmd a = 0xA0#8 ||| a.setWidth 8 := by revert a; decide

/-! The answers (R27). -/

theorem drawAnswer_now (s : State) : drawAnswer s.answers s.draws = answerAt s 0 := by simp [answerAt]

@[simp] theorem answerAt_drawn (s : State) (k j : Nat) : answerAt (drawn k s) j = answerAt s (k + j) := by
  simp [answerAt, drawn, Nat.add_assoc]

@[simp] theorem answerAt_sent (s : State) (ts : List Txn) (j : Nat) : answerAt (sent ts s) j = answerAt s j := rfl

/-- `Received` names the bytes the model receives. -/
theorem received_iff (draw n : Nat) (bs data : List Byte) :
    Received draw n bs data ↔ data = receiveBytes draw 0 n bs := by
  have key : ∀ k, k < n → (receiveBytes draw 0 n bs)[k]? = some (bs.getD k (Config.freeByte draw k)) := by
    intro k hk
    have h := receiveBytes_getD draw 0 n k bs (Config.freeByte draw k) hk
    rw [List.getD_eq_getElem?_getD, List.getElem?_eq_getElem (by simpa using hk)] at h
    rw [List.getElem?_eq_getElem (by simpa using hk)]
    simpa using h
  constructor
  · rintro ⟨hl, hk⟩
    apply List.ext_getElem?
    intro k
    by_cases hkn : k < n
    · rw [hk k hkn, key k hkn]
    · rw [List.getElem?_eq_none (by omega), List.getElem?_eq_none (by simp; omega)]
  · rintro rfl
    exact ⟨by simp, key⟩

/-! One transaction, step by step. -/

theorem runSteps_one {s : State} {bs : List Byte} (st : BusStep) (h0 : answerAt s 0 = .done bs) :
    runSteps [st] s.answers s.draws =
      ⟨[st], .ok (st.received s.draws bs), s.answers.drop 1, s.draws + 1⟩ := by
  rw [runSteps_done st _ (by rw [drawAnswer_now]; exact h0)]
  simp

theorem runSteps_two {s : State} {b0 b1 : List Byte} (st1 st2 : BusStep) (h0 : answerAt s 0 = .done b0)
    (h1 : answerAt s 1 = .done b1) :
    runSteps [st1, st2] s.answers s.draws =
      ⟨[st1, st2], .ok (st1.received s.draws b0 ++ st2.received (s.draws + 1) b1), s.answers.drop 2, s.draws + 2⟩ := by
  rw [runSteps_done st1 _ (by rw [drawAnswer_now]; exact h0), runSteps_done st2 _ (by simpa [answerAt] using h1)]
  rcases s.answers with _ | ⟨_, _ | _⟩ <;> simp

theorem runSteps_first_fails {s : State} {e : BusError} (st : BusStep) (sts : List BusStep)
    (h0 : answerAt s 0 = .fail e) :
    runSteps (st :: sts) s.answers s.draws = ⟨[st], .err e, s.answers.drop 1, s.draws + 1⟩ := by
  rw [runSteps_fail st _ (by rw [drawAnswer_now]; exact h0)]; simp

theorem runSteps_second_fails {s : State} {b0 : List Byte} {e : BusError} (st1 st2 : BusStep)
    (h0 : answerAt s 0 = .done b0) (h1 : answerAt s 1 = .fail e) :
    runSteps [st1, st2] s.answers s.draws = ⟨[st1, st2], .err e, s.answers.drop 2, s.draws + 2⟩ := by
  rw [runSteps_done st1 _ (by rw [drawAnswer_now]; exact h0), runSteps_fail st2 _ (by simpa [answerAt] using h1)]
  rcases s.answers with _ | ⟨_, _ | _⟩ <;> simp

/-! One transaction, as a whole. -/

/-- The state after a transaction, by the steps it ran. -/
theorem afterTxn_eq (s : State) (t : Txn) :
    s.afterTxn t = drawn (runSteps t s.answers s.draws).sent.length (sent [(runSteps t s.answers s.draws).sent] s) := by
  simp [State.afterTxn, drawn, sent, runSteps_answers t s.answers s.draws, runSteps_draws t s.answers s.draws]

/-- The answers a run met: every step it ran but a failing one completed, and a failing one is the last, with its error. -/
theorem runSteps_answered (t : Txn) (s : State) :
    match (runSteps t s.answers s.draws).reply with
    | .ok _ => ∀ j, j < t.length → ∃ bs, answerAt s j = .done bs
    | .err e => ∃ k, (runSteps t s.answers s.draws).sent.length = k + 1 ∧ answerAt s k = .fail e ∧
        ∀ j, j < k → ∃ bs, answerAt s j = .done bs := by
  induction t generalizing s with
  | nil => simp
  | cons st sts ih =>
    cases h : answerAt s 0 with
    | fail e =>
      simp only [runSteps_first_fails st sts h]
      exact ⟨0, rfl, h, by omega⟩
    | done bs =>
      have hd := runSteps_done st sts (by rw [drawAnswer_now]; exact h)
      have := ih (drawn 1 s)
      rw [show (drawn 1 s).answers = s.answers.tail by simp [drawn],
        show (drawn 1 s).draws = s.draws + 1 by simp [drawn]] at this
      rw [hd]
      cases hr : (runSteps sts s.answers.tail (s.draws + 1)).reply with
      | ok ins =>
        simp only [hr, answerAt_drawn, push_ok] at this ⊢
        intro j hj
        match j with
        | 0 => exact ⟨bs, h⟩
        | j + 1 => rw [Nat.add_comm]; exact this j (by simpa using hj)
      | err e =>
        simp only [hr, answerAt_drawn, push_err] at this ⊢
        obtain ⟨k, hk, he, hj⟩ := this
        refine ⟨k + 1, by simp [hk], by rw [Nat.add_comm]; exact he, fun j hlt => ?_⟩
        match j with
        | 0 => exact ⟨bs, h⟩
        | j + 1 => rw [Nat.add_comm]; exact hj j (by omega)

/-- A transaction that succeeds is sent whole, and every step of it was answered. -/
theorem txn_ok {s : State} {t : Txn} {ins : List (List Byte)} (h : s.busReply t = .ok ins) :
    s.afterTxn t = drawn t.length (sent [t] s) ∧ ins.flatten.length = captured t ∧
      ∀ j, j < t.length → ∃ bs, answerAt s j = .done bs := by
  have ha := runSteps_answered t s
  rw [show (runSteps t s.answers s.draws).reply = .ok ins from h] at ha
  exact ⟨by rw [afterTxn_eq, runSteps_sent_of_ok h], length_flatten_of_ok h, ha⟩

/-- A transaction that fails is sent up to its failing step, whose error it returns. -/
theorem txn_err {s : State} {t : Txn} {e : BusError} (h : s.busReply t = .err e) :
    ∃ (p : Txn) (k : Nat), p <+: t ∧ p.length = k + 1 ∧ s.afterTxn t = drawn (k + 1) (sent [p] s) ∧
      answerAt s k = .fail e ∧ ∀ j, j < k → ∃ bs, answerAt s j = .done bs := by
  have ha := runSteps_answered t s
  rw [show (runSteps t s.answers s.draws).reply = .err e from h] at ha
  obtain ⟨k, hk, he, hj⟩ := ha
  exact ⟨_, k, runSteps_sent_prefix t s.answers s.draws, hk, by rw [afterTxn_eq, hk], he, hj⟩

/-! A request's end. -/

/-- A request that runs no bus step ends, whatever the transport does (R114, R117). -/
theorem finish_same {s t : State} (hd : t.draws = s.draws) (hb : t.busLife = s.busLife) : finish s t = .next t := by
  unfold finish
  split
  · rfl
  · next life h => rw [← hb] at h; cases t; simp_all

/-- A refusal is the request's end (R117). -/
@[simp] theorem finish_refuse (s : State) (r : Reason) : finish s (s.refuse r) = .next (s.refuse r) :=
  finish_same (by simp) (by simp)

end Sys2Proof.Laws
end

