-- ==== Sys2Proof/Laws/Decode.lean ====
section
/-! SUPPORT. The request format's fields taken apart again (R68), and the operand checks as the decoder uses them. -/

namespace Sys2Proof.Laws

@[simp] theorem opField_reqWord (op : BitVec 3) (a : Addr) (arg : Byte) : opField (reqWord op a arg) = op := by
  ext i hi
  simp only [opField, reqWord, BitVec.getElem_extractLsb', BitVec.getLsbD_append]
  have h1 : ¬ 13 + i < 8 := by omega
  have h2 : ¬ 13 + i - 8 < 5 := by omega
  simp [h1, h2, show 13 + i - 8 - 5 = i by omega, BitVec.getLsbD_eq_getElem hi]

@[simp] theorem addrField_reqWord (op : BitVec 3) (a : Addr) (arg : Byte) : addrField (reqWord op a arg) = a := by
  ext i hi
  simp only [addrField, reqWord, BitVec.getElem_extractLsb', BitVec.getLsbD_append]
  have h1 : ¬ 8 + i < 8 := by omega
  simp [h1, show 8 + i - 8 = i by omega, hi]

@[simp] theorem argField_reqWord (op : BitVec 3) (a : Addr) (arg : Byte) : argField (reqWord op a arg) = arg := by
  ext i hi
  simp only [argField, reqWord, BitVec.getElem_extractLsb', BitVec.getLsbD_append]
  simp [show 0 + i = i by omega, hi]

/-- A request word is its three fields (R68). -/
theorem reqWord_fields (w : Word) : reqWord (opField w) (addrField w) (argField w) = w := by
  ext i hi
  simp only [reqWord, ← BitVec.getLsbD_eq_getElem, BitVec.getLsbD_append, opField, addrField, argField,
    BitVec.getLsbD_extractLsb']
  by_cases h1 : i < 8
  · simp [h1]
  · by_cases h2 : i - 8 < 5
    · simp [h1, h2, show 8 + (i - 8) = i by omega]
    · simp [h1, h2, show 13 + (i - 8 - 5) = i by omega, show i - 8 - 5 < 3 by omega]

/-- `goodLength` says `1 <= N <= MAX_BLOCK` (R70). -/
theorem goodLength_iff (n : Byte) : goodLength n = true ↔ 1 ≤ n.toNat ∧ n.toNat ≤ Config.maxBlock := by
  simp [goodLength]

end Sys2Proof.Laws
end

