-- ==== Sys2Proof/Laws/PerInstr.lean ====
section
/-! SUPPORT. Statements about every instruction, one lemma per constructor. TableRow: the encoder gives every
instruction the fixed bits of its row of the opcode table (R70, R73, R74). -/

namespace Sys2Proof.Laws.TableRow

/-- The code of an instruction selects its own row: `w & mask = match` (R70). -/
def Statement (i : Instr) : Prop := (encode i).selects i

theorem rd1 (a : Addr) : Statement (.rd1 a) := by
  revert a; simp only [Statement, Code.selects]; decide

/-- Clearing `ADDR` and `ARG` of a request word leaves its `OP` field. -/
theorem reqWord_and_op (op : BitVec 3) (a : Addr) (arg : Byte) :
    reqWord op a arg &&& 0xE000#16 = reqWord op 0#5 0#8 := by
  have h : (0xE000#16 : Word) = ((7#3 ++ 0#5) ++ 0#8 : BitVec 16) := by decide
  rw [h]
  unfold reqWord
  erw [BitVec.and_append, BitVec.and_append]
  have h7 : op &&& 7#3 = op := by revert op; decide
  simp [h7]

theorem rdn (a : Addr) (n : Byte) : Statement (.rdn a n) := by
  simp only [Statement, Code.selects, encode, Code.bits, Instr.tableRow]
  rw [reqWord_and_op]; decide

theorem wr (a : Addr) (v : Byte) : Statement (.wr a v) := by
  simp only [Statement, Code.selects, encode, Code.bits, Instr.tableRow]
  rw [reqWord_and_op]; decide

theorem wrd (a : Addr) (v : Byte) : Statement (.wrd a v) := by
  simp only [Statement, Code.selects, encode, Code.bits, Instr.tableRow]
  rw [reqWord_and_op]; decide

theorem decabs : Statement .decabs := by simp only [Statement, Code.selects]; decide
theorem decrel : Statement .decrel := by simp only [Statement, Code.selects]; decide
theorem sampleAbs : Statement .sampleAbs := by simp only [Statement, Code.selects]; decide
theorem sampleRel : Statement .sampleRel := by simp only [Statement, Code.selects]; decide

theorem cmdWrite (a : Addr) : Statement (.cmdWrite a) := by
  revert a; simp only [Statement, Code.selects]; decide

theorem cmdRead (a : Addr) : Statement (.cmdRead a) := by
  revert a; simp only [Statement, Code.selects]; decide

theorem cont : Statement .cont := by simp only [Statement, Code.selects]; decide
theorem fill : Statement .fill := by simp only [Statement, Code.selects]; decide

end Sys2Proof.Laws.TableRow
end

