-- ==== Sys2Proof/Laws/Request.lean ====
section
/-! SUPPORT. Everything a request can do, said once: it is refused, or it succeeds with all its transactions, or a bus
step of one of them fails. -/

namespace Sys2Proof.Laws

open Sys2Proof.Machine Sys2Proof.Safety

/-- The transactions of a request that succeeds (R75). -/
def transactions : Instr → List Txn
  | .rd1 a => [readFrame a]
  | .rdn a n => [blockFrame a n.toNat]
  | .wr a v => [writeFrame a v]
  | .wrd a v => [delayedFrame a v]
  | .decabs => []
  | .decrel => []
  | .sampleAbs => [blockFrame Reg.pkt0 6, clearFrame]
  | .sampleRel => [blockFrame Reg.pkt0 4, clearFrame]
  | .cmdWrite _ => []
  | .cmdRead _ => []
  | .cont => []
  | .fill => []

/-- How many bytes a request that succeeds leaves in the receive buffer, where it writes it (R22). -/
def bufferWritten : Instr → Option Nat
  | .rd1 _ => some 1
  | .rdn _ n => some n.toNat
  | .wr _ _ => none
  | .wrd _ _ => none
  | .decabs => none
  | .decrel => none
  | .sampleAbs => some 6
  | .sampleRel => some 4
  | .cmdWrite _ => none
  | .cmdRead _ => none
  | .cont => none
  | .fill => none

/-- A successful end: all transactions sent and answered, the buffer written where the request writes it, and the value
of its type posted. -/
structure EndsOk (i : Instr) (s u : State) (v : Value) : Prop where
  wellFormed : i.WellFormed
  state : ∃ buf, u = ((drawn (transactions i).flatten.length (sent (transactions i) s)).setRxbuf buf).returnOk v ∧
    (∀ n, bufferWritten i = some n → buf.length = n) ∧ (bufferWritten i = none → buf = s.rxbuf)
  value : valueFits i v u
  answered : ∀ j, j < (transactions i).flatten.length → ∃ bs, answerAt s j = .done bs

/-- A failed end: the transactions sent up to the failing step, and its error posted (R88, R116). -/
structure EndsErr (i : Instr) (s u : State) (e : BusError) : Prop where
  wellFormed : i.WellFormed
  state : ∃ (before : List Txn) (p t : Txn), before ++ [t] <+: transactions i ∧ p ≠ [] ∧ p <+: t ∧
    u = (drawn (before ++ [p]).flatten.length (sent (before ++ [p]) s)).raiseError e ∧
    ∃ k, (before ++ [p]).flatten.length = k + 1 ∧ answerAt s k = .fail e ∧ ∀ j, j < k → ∃ bs, answerAt s j = .done bs

/-- The mode a codec request needs (R108 to R111). -/
def modeOf : Instr → Option Mode
  | .rd1 _ => none
  | .rdn _ _ => none
  | .wr _ _ => none
  | .wrd _ _ => none
  | .decabs => some .absolute
  | .decrel => some .relative
  | .sampleAbs => some .absolute
  | .sampleRel => some .relative
  | .cmdWrite _ => none
  | .cmdRead _ => none
  | .cont => none
  | .fill => none

/-- Why a request is refused (R118): for an operand, for the mode, or for a buffer too short to decode. -/
def Refuses (i : Instr) (s : State) (r : Reason) : Prop :=
  i.operandFault = some r ∨ (r = .modeMismatch ∧ ∃ m, modeOf i = some m ∧ s.mode ≠ m) ∨
    (r = .unwrittenBuffer ∧ modeOf i = some s.mode ∧ (i = .decabs ∧ s.rxlen < 6 ∨ i = .decrel ∧ s.rxlen < 4))

/-- The three ends of a request. -/
def Ends (i : Instr) (s u : State) : Prop :=
  (∃ r, Refuses i s r ∧ u = s.refuse r) ∨ (∃ v, EndsOk i s u v) ∨ ∃ e, EndsErr i s u e

/-- A framer request's ends, from its one transaction (R87, R88). -/
theorem framer_ends {i : Instr} {t : Txn} (hi : transactions i = [t]) (s : State)
    (buf : List (List Byte) → List Byte) (v : List (List Byte) → Value)
    (hbuf : ∀ ins, ins.flatten.length = captured t → i.WellFormed → ∀ n, bufferWritten i = some n → (buf ins).length = n)
    (hkeep : ∀ ins, bufferWritten i = none → buf ins = s.rxbuf)
    (hv : ∀ ins u, ins.flatten.length = captured t → i.WellFormed → u.rxbuf = buf ins → valueFits i (v ins) u) :
    Ends i s (s.checked i fun s => s.busTxn t fun ins u => (u.setRxbuf (buf ins)).returnOk (v ins)) := by
  obtain ⟨r, hf, h⟩ | ⟨wf, h⟩ := checked_cases s i fun s => s.busTxn t fun ins u => (u.setRxbuf (buf ins)).returnOk (v ins)
  · exact .inl ⟨r, .inl hf, h⟩
  · rw [h]
    obtain ⟨ins, hr, hlen, -, he⟩ | ⟨e, hr, he⟩ := busTxn_cases s t fun ins u => (u.setRxbuf (buf ins)).returnOk (v ins)
    · obtain ⟨ha, -, hd⟩ := txn_ok hr
      rw [he]
      exact .inr (.inl ⟨v ins, wf,
        ⟨buf ins, by simp [hi, ha], hbuf ins hlen wf, hkeep ins⟩,
        hv ins _ hlen wf (by simp), by simpa [hi] using hd⟩)
    · obtain ⟨p, k, hp, hk, ha, hf, hd⟩ := txn_err hr
      rw [he]
      exact .inr (.inr ⟨e, wf, [], p, t, by simp [hi],
        by rintro rfl; simp at hk, hp, by simp [ha, hk], k, by simp [hk], hf, hd⟩)

/-- A SAMPLE's ends, from its two transactions (R110, R111). -/
theorem sample_ends {i : Instr} {n : Nat} (hn : 1 ≤ n) (hi : transactions i = [blockFrame Reg.pkt0 n, clearFrame])
    (wf : i.WellFormed) (hb : bufferWritten i = some n) (s : State) (m : Mode) (f : (Nat → Byte) → Value)
    (hm : modeOf i = some m) (hv : ∀ g u, valueFits i (f g) u) : Ends i s (s.inMode m fun s => s.sample n f) := by
  obtain ⟨hne, h⟩ | ⟨-, h⟩ := inMode_cases s m fun s => s.sample n f
  · exact .inl ⟨_, .inr (.inl ⟨rfl, m, hm, hne⟩), h⟩
  · rw [h]
    obtain ⟨ins, hr, hlen, ⟨ins', hr'⟩, he⟩ | ⟨e, hr, he⟩ | ⟨ins, e, hr, hr', he⟩ := sample_cases s n hn f
    · obtain ⟨ha, -, hd⟩ := txn_ok hr
      obtain ⟨ha', -, hd'⟩ := txn_ok hr'
      rw [he]
      refine .inr (.inl ⟨f (s.inByte ins.flatten), wf, ⟨ins.flatten, ?_, ?_, ?_⟩, hv _ _, ?_⟩)
      · rw [ha', ha]
        simp [hi, drawn, sent, Nat.add_assoc]
      · intro k hk; rw [hb] at hk; cases hk; exact hlen
      · intro hk; rw [hb] at hk; cases hk
      · intro j hj
        rw [ha] at hd'
        by_cases hjl : j < (blockFrame Reg.pkt0 n).length
        · exact hd j hjl
        · simp [hi] at hj
          obtain ⟨bs, hbs⟩ := hd' (j - (blockFrame Reg.pkt0 n).length) (by omega)
          refine ⟨bs, ?_⟩
          rw [answerAt_drawn, answerAt_sent] at hbs
          rw [← hbs]; congr 1; omega
    · obtain ⟨p, k, hp, hk, ha, hf, hd⟩ := txn_err hr
      rw [he]
      exact .inr (.inr ⟨e, wf, [], p, _, by simp [hi],
        by rintro rfl; simp at hk, hp, by simp [ha, hk], k, by simp [hk], hf, hd⟩)
    · obtain ⟨ha, -, hd⟩ := txn_ok hr
      obtain ⟨p, k, hp, hk, ha', hf, hd'⟩ := txn_err hr'
      rw [he]
      rw [ha] at hf hd'
      refine .inr (.inr ⟨e, wf, [blockFrame Reg.pkt0 n], p, _, by simp [hi],
        by rintro rfl; simp at hk, hp, ?_, (blockFrame Reg.pkt0 n).length + k, by simp [hk]; omega, ?_, ?_⟩)
      · rw [ha', ha]
        simp [drawn, sent, hk, Nat.add_assoc]
      · rw [answerAt_drawn, answerAt_sent] at hf; exact hf
      · intro j hj
        by_cases hjl : j < (blockFrame Reg.pkt0 n).length
        · exact hd j hjl
        · obtain ⟨bs, hbs⟩ := hd' (j - (blockFrame Reg.pkt0 n).length) (by omega)
          refine ⟨bs, ?_⟩
          rw [answerAt_drawn, answerAt_sent] at hbs
          rw [← hbs]; congr 1; omega

/-- A DECABS or DECREL that returns a value changes nothing else (R108, R109). -/
theorem decode_endsOk {i : Instr} {s : State} {v : Value} (wf : i.WellFormed) (ht : transactions i = [])
    (hb : bufferWritten i = none) (hv : ∀ u, valueFits i v u) : EndsOk i s (s.returnOk v) v :=
  ⟨wf, ⟨s.rxbuf, by simp [ht, drawn, sent, State.setRxbuf, State.returnOk, State.post], by simp [hb], fun _ => rfl⟩,
    hv _, by simp [ht]⟩

/-- Every request ends in one of the three ways, unless the transport never completes a step it needs (R114). -/
theorem request_ends (i : Instr) (hi : i.isRequest = true) (s : State) :
    ∃ u, exec i s = finish s u ∧ Ends i s u := by
  cases i with
  | rd1 a =>
    exact ⟨_, rfl, framer_ends (buf := fun ins => [s.inByte ins.flatten 3])
      (v := fun ins => .byte (s.inByte ins.flatten 3)) rfl s
      (fun _ _ _ n hn => by cases hn; rfl) (fun _ hn => by cases hn) (fun ins u _ _ hu => ⟨_, rfl, hu⟩)⟩
  | rdn a n =>
    have hlen : ∀ ins : List (List Byte), ins.flatten.length = captured (blockFrame a n.toNat) →
        (Instr.rdn a n).WellFormed → ins.flatten.length = n.toNat := by
      intro ins h wf
      rw [h]
      refine captured_blockFrame a ?_
      simp only [Instr.WellFormed, Instr.operandFault] at wf
      split at wf
      · split at wf
        · next hg => exact ((goodLength_iff n).mp hg).1
        · cases wf
      · cases wf
    exact ⟨_, rfl, framer_ends (buf := fun ins => ins.flatten) (v := fun ins => .bytes ins.flatten) rfl s (fun ins h wf k hk => by cases hk; exact hlen ins h wf) (fun _ hn => by cases hn)
      (fun ins u h wf hu => ⟨_, rfl, hlen ins h wf, hu⟩)⟩
  | wr a v =>
    exact ⟨_, rfl, by
      have := framer_ends (i := .wr a v) (buf := fun _ => s.rxbuf) (v := fun _ => .unit) rfl s
        (fun _ _ _ n hn => by cases hn) (fun _ _ => rfl) (fun _ _ _ _ _ => rfl)
      exact this⟩
  | wrd a v =>
    exact ⟨_, rfl, by
      have := framer_ends (i := .wrd a v) (buf := fun _ => s.rxbuf) (v := fun _ => .unit) rfl s
        (fun _ _ _ n hn => by cases hn) (fun _ _ => rfl) (fun _ _ _ _ _ => rfl)
      exact this⟩
  | decabs =>
    refine ⟨_, rfl, ?_⟩
    obtain ⟨hne, h⟩ | ⟨hm, h⟩ := inMode_cases s .absolute State.decodeBufferAbs
    · exact .inl ⟨_, .inr (.inl ⟨rfl, _, rfl, hne⟩), h⟩
    · rw [h]
      obtain ⟨_, _, _, _, _, _, _, -, h⟩ | ⟨hl, h⟩ := decodeBufferAbs_cases s
      · rw [h]; exact .inr (.inl ⟨_, decode_endsOk rfl rfl rfl fun _ => ⟨_, rfl⟩⟩)
      · exact .inl ⟨_, .inr (.inr ⟨rfl, by simp [modeOf, hm], by simp [hl]⟩), h⟩
  | decrel =>
    refine ⟨_, rfl, ?_⟩
    obtain ⟨hne, h⟩ | ⟨hm, h⟩ := inMode_cases s .relative State.decodeBufferRel
    · exact .inl ⟨_, .inr (.inl ⟨rfl, _, rfl, hne⟩), h⟩
    · rw [h]
      obtain ⟨_, _, _, _, _, -, h⟩ | ⟨hl, h⟩ := decodeBufferRel_cases s
      · rw [h]; exact .inr (.inl ⟨_, decode_endsOk rfl rfl rfl fun _ => ⟨_, rfl⟩⟩)
      · exact .inl ⟨_, .inr (.inr ⟨rfl, by simp [modeOf, hm], by simp [hl]⟩), h⟩
  | sampleAbs =>
    exact ⟨_, rfl, sample_ends (n := 6) (by omega) rfl rfl rfl s .absolute _ rfl fun _ _ => ⟨_, rfl⟩⟩
  | sampleRel =>
    exact ⟨_, rfl, sample_ends (n := 4) (by omega) rfl rfl rfl s .relative _ rfl fun _ _ => ⟨_, rfl⟩⟩
  | cmdWrite a => cases hi
  | cmdRead a => cases hi
  | cont => cases hi
  | fill => cases hi

/-- A wire row is its byte, taken by the monitor (R86). -/
theorem wire_exec (i : Instr) (hi : i.isRequest = false) (s : State) :
    ∃ b, encode i = .wire b ∧ exec i s = .next (s.monitorByte b) := by
  cases i with
  | cmdWrite a => exact ⟨writeCmd a, by revert a; decide, rfl⟩
  | cmdRead a => exact ⟨readCmd a, by revert a; decide, rfl⟩
  | cont => exact ⟨_, rfl, rfl⟩
  | fill => exact ⟨_, rfl, rfl⟩
  | rd1 a => cases hi
  | rdn a n => cases hi
  | wr a v => cases hi
  | wrd a v => cases hi
  | decabs => cases hi
  | decrel => cases hi
  | sampleAbs => cases hi
  | sampleRel => cases hi

/-- What an instruction that answers a next state has done. -/
inductive Did (i : Instr) (s : State) : State → Prop where
  /-- A captured byte was read by the monitor. -/
  | monitored (b : Byte) (hi : i.isRequest = false) (hb : encode i = .wire b) : Did i s (s.monitorByte b)
  /-- The request was refused. -/
  | refused (r : Reason) (hi : i.isRequest = true) (h : Refuses i s r) : Did i s (s.refuse r)
  /-- The request succeeded. -/
  | ok (u : State) (v : Value) (life : Option Nat) (hi : i.isRequest = true) (h : EndsOk i s u v) :
    Did i s { u with busLife := life }
  /-- A bus step of the request failed. -/
  | err (u : State) (e : BusError) (life : Option Nat) (hi : i.isRequest = true) (h : EndsErr i s u e) :
    Did i s { u with busLife := life }

/-- Everything `exec` can do when it answers a next state. -/
theorem exec_next {i : Instr} {s t : State} (h : exec i s = .next t) : Did i s t := by
  cases hi : i.isRequest with
  | false =>
    obtain ⟨b, hb, he⟩ := wire_exec i hi s
    rw [he] at h
    cases h
    exact .monitored b hi hb
  | true =>
    obtain ⟨u, hu, he⟩ := request_ends i hi s
    rw [hu] at h
    obtain ⟨r, hr, rfl⟩ | ⟨v, hv⟩ | ⟨e, hv⟩ := he
    · rw [finish_refuse] at h
      cases h
      exact .refused r hi hr
    · obtain ⟨life, rfl⟩ := finish_next h
      exact .ok u v life hi hv
    · obtain ⟨life, rfl⟩ := finish_next h
      exact .err u e life hi hv

/-- What a step that answers a next state has done. -/
inductive Stepped (s : State) : State → Prop where
  /-- Nothing was offered. -/
  | idle (h : s.offers = []) : Stepped s s
  /-- The block was constructed (R34). -/
  | constructed (m : Mode) (rest : List Offer) (h : s.offers = .construct m :: rest) :
    Stepped s ((s.withOffers rest).construct m)
  /-- The monitor read a captured byte. -/
  | monitored (b c : Byte) (rest : List Offer) (h : s.offers = .code (.wire b) :: rest) :
    Stepped s ((s.withOffers rest).monitorByte c)
  /-- The monitor saw chip-select released. -/
  | released (rest : List Offer) (h : s.offers = .release :: rest) : Stepped s (s.withOffers rest).monitorRelease
  /-- A request word was refused by the decoder (R78 to R80). -/
  | rejected (w : Word) (rest : List Offer) (r : Reason) (h : s.offers = .code (.request w) :: rest) :
    Stepped s ((s.withOffers rest).refuse r)
  /-- A request ran. -/
  | ran (w : Word) (rest : List Offer) (i : Instr) (t : State) (h : s.offers = .code (.request w) :: rest)
    (hi : i.isRequest = true) (he : exec i (s.withOffers rest) = .next t) (hd : Did i (s.withOffers rest) t) :
    Stepped s t

theorem isRequest_of_decodeRequest {w : Word} {i : Instr} (h : decodeRequest w = .ok i) : i.isRequest = true := by
  unfold decodeRequest noOperands at h
  simp only at h
  repeat' split at h
  all_goals first | (cases h; rfl) | cases h

theorem isRequest_of_decodeWire {b : Byte} {i : Instr} (h : decodeWire b = .ok i) : i.isRequest = false := by
  unfold decodeWire at h
  repeat' split at h
  all_goals first | (cases h; rfl) | cases h

/-- Everything a step can do when it answers a next state. -/
theorem step_next {s t : State} (h : step s = .next t) : Stepped s t := by
  obtain ⟨ho, h1⟩ | ⟨m, rest, ho, h1⟩ | ⟨rest, ho, h1⟩ | ⟨c, i, rest, ho, hd, h1⟩ |
    ⟨c, r, rest, ho, hd, h1⟩ := step_cases s <;> rw [h1] at h
  · cases h; exact .idle ho
  · cases h; exact .constructed m rest ho
  · cases h; exact .released rest ho
  · cases c with
    | wire b =>
      obtain ⟨c, -, hb⟩ := wire_exec i (isRequest_of_decodeWire hd) (s.withOffers rest)
      rw [hb] at h
      cases h
      exact .monitored b c rest ho
    | request w =>
      have hi : i.isRequest = true := by
        cases hw : decodeRequest w with
        | error r => simp [decode, hw, Except.mapError] at hd
        | ok j =>
          simp [decode, hw, Except.mapError] at hd
          exact hd ▸ isRequest_of_decodeRequest hw
      exact .ran w rest i t ho hi h (exec_next h)
  · cases h
    cases c with
    | wire b =>
      cases r with
      | dataByte x => exact .monitored b x rest ho
      | refused x =>
        unfold decode decodeWire at hd
        simp only at hd
        repeat' split at hd
        all_goals cases hd
    | request w =>
      cases r with
      | refused x => exact .rejected w rest x ho
      | dataByte x =>
        cases hw : decodeRequest w with
        | error r => simp [decode, hw, Except.mapError] at hd
        | ok j => simp [decode, hw, Except.mapError] at hd

/-! The bytes of a captured transaction, step by step. -/

/-- A wire byte that decodes is its instruction's byte (R73, R74). -/
theorem exec_of_decodeWire {b : Byte} {i : Instr} (h : decodeWire b = .ok i) (s : State) :
    exec i s = .next (s.monitorByte b) := by
  unfold decodeWire at h
  repeat' split at h
  all_goals cases h
  · next hb => subst hb; rfl
  · next hb => subst hb; rfl
  · next hb => simp [exec, execCmdWrite, writeCmd_extract hb]
  · next hb => simp [exec, execCmdRead, readCmd_extract hb]

/-- A step that is offered a wire byte, of a row or of none, gives it to the monitor (R86). -/
theorem step_wire {s : State} {b : Byte} {rest : List Offer} (h : s.offers = .code (.wire b) :: rest) :
    step s = .next ((s.withOffers rest).monitorByte b) := by
  cases hd : decodeWire b with
  | ok i => simp [step, h, decode, hd, exec_of_decodeWire hd]
  | error r =>
    have : r = .dataByte b := by
      unfold decodeWire at hd
      repeat' split at hd
      all_goals cases hd
      rfl
    simp [step, h, decode, hd, this, State.rejectCode]

/-- The bytes of a transaction and the release of chip-select, offered one by one, are one reading (R45, R86). -/
theorem stepTimes_transaction (b : Byte) (bs : List Byte) (s : State) (rest : List Offer) (hc : s.capture = [])
    (ho : s.offers = (b :: bs).map (fun b => .code (.wire b)) ++ .release :: rest) :
    stepTimes (bs.length + 2) s =
      .next { s with offers := rest, readings := s.readings ++ [readBack (wireRoles (b :: bs))] } := by
  have key : ∀ (bs done : List Byte) (s : State), done ++ bs ≠ [] → s.capture = wireRoles done →
      s.offers = bs.map (fun b => .code (.wire b)) ++ .release :: rest →
      stepTimes (bs.length + 1) s =
        .next { s with offers := rest, capture := [], readings := s.readings ++ [readBack (wireRoles (done ++ bs))] } := by
    intro bs
    induction bs with
    | nil =>
      intro done s hne hc ho
      have hne' : wireRoles done ≠ [] := by
        intro h
        exact hne (by simpa [h] using (wireRoles_bytes done).symm)
      have hs : step s = .next (s.withOffers rest).monitorRelease := by simp [step, show s.offers = .release :: rest from ho]
      obtain ⟨h, -⟩ | ⟨-, h⟩ := monitorRelease_cases (s.withOffers rest)
      · exact absurd (hc.symm.trans h) hne'
      · simp only [List.length_nil, stepTimes, hs, h]
        simp [State.withOffers, hc]
    | cons b bs ih =>
      intro done s hne hc ho
      have h := ih (done ++ [b]) ((s.withOffers (bs.map (fun b => .code (.wire b)) ++ .release :: rest)).monitorByte b)
        (by simp) (by simp [hc, wireRoles_concat]) rfl
      simp only [List.length_cons, stepTimes, step_wire (show s.offers = .code (.wire b) ::
        (bs.map (fun b => .code (.wire b)) ++ .release :: rest) from ho)] at h ⊢
      rw [h]
      simp [State.monitorByte, State.withOffers]
  have h := key (b :: bs) [] s (by simp) hc ho
  simpa [hc] using h

end Sys2Proof.Laws
end

