-- ==== Sys2Proof/Tests/Slice0.lean ====
section
/-! SUPPORT. The model's own tests: ill-formed terms, decoding of words written out from spec/30_encoding.md, one step
per test against the vectors of spec/95_test_vectors.md (named in each docstring), and witnesses that the hypotheses of
the obligations can be met. -/

namespace Sys2Proof.Tests

open Sys2Proof.Machine Sys2Proof.Safety

/-! ## Well-formedness: each check refuses an ill-formed term (R79, R80) -/

theorem test_rd1_unlisted : (Instr.rd1 0x06#5).operandFault = some .unlistedAddress := by decide
theorem test_rdn_unlisted : (Instr.rdn 0x13#5 6#8).operandFault = some .unlistedAddress := by decide
theorem test_rdn_unlisted_first : (Instr.rdn 0x0E#5 0#8).operandFault = some .unlistedAddress := by decide
theorem test_rdn_zero : (Instr.rdn 0x12#5 0#8).operandFault = some .badLength := by decide
theorem test_rdn_too_long : (Instr.rdn 0x12#5 33#8).operandFault = some .badLength := by decide
theorem test_rdn_longest : (Instr.rdn 0x12#5 32#8).WellFormed := by decide
theorem test_wr_unlisted : ¬ (Instr.wr 0x08#5 0#8).WellFormed := by decide
theorem test_wrd_unlisted : ¬ (Instr.wrd 0x1E#5 0#8).WellFormed := by decide
theorem test_fourteen_addresses : addrSet.length = 14 ∧ addrSet.Nodup := by decide

/-! ## Decoding: OP, ADDR, ARG written bit by bit (R68 to R70), wire bytes (R73, R74) -/

theorem test_decode_rd1 : decode (.request 0b000_11111_00000000#16) = .ok (.rd1 0x1F#5) := by decide
theorem test_decode_rdn : decode (.request 0b001_10010_00000110#16) = .ok (.rdn 0x12#5 6#8) := by decide
theorem test_decode_wr : decode (.request 0b010_00100_00000011#16) = .ok (.wr 0x04#5 0x03#8) := by decide
theorem test_decode_wrd : decode (.request 0b011_00111_10000001#16) = .ok (.wrd 0x07#5 0x81#8) := by decide
theorem test_decode_decabs : decode (.request 0b100_00000_00000000#16) = .ok .decabs := by decide
theorem test_decode_decrel : decode (.request 0b101_00000_00000000#16) = .ok .decrel := by decide
theorem test_decode_sampleAbs : decode (.request 0b110_00000_00000000#16) = .ok .sampleAbs := by decide
theorem test_decode_sampleRel : decode (.request 0b111_00000_00000000#16) = .ok .sampleRel := by decide
theorem test_decode_cmdWrite : decode (.wire 0b100_11111#8) = .ok (.cmdWrite 0x1F#5) := by decide
theorem test_decode_cmdRead : decode (.wire 0b101_00010#8) = .ok (.cmdRead 0x02#5) := by decide
theorem test_decode_cont : decode (.wire 0b1111_1100#8) = .ok .cont := by decide
theorem test_decode_fill : decode (.wire 0b1111_1011#8) = .ok .fill := by decide
theorem test_decode_data : decode (.wire 0x7F#8) = .error (.dataByte 0x7F#8) := by decide

/-- Q1 to Q4, Q9 and Q24 of spec/95, section 2.4. -/
theorem test_decode_refusals :
    decodeRequest 0x0001#16 = .error .reservedField ∧ decodeRequest 0x0600#16 = .error .unlistedAddress ∧
      decodeRequest 0x0601#16 = .error .reservedField ∧ decodeRequest 0x1300#16 = .error .unlistedAddress ∧
      decodeRequest 0x2E00#16 = .error .unlistedAddress ∧ decodeRequest 0xFFFF#16 = .error .reservedField := by
  decide

/-! ## One step -/

/-- A block in a mode, with a receive buffer, the transport's answers to come and the bus steps it completes. -/
def block (m : Mode) (buffer : List Byte) (answers : List Answer) (life : Option Nat := none) : State :=
  { State.reset with mode := m, rxbuf := buffer, answers := answers, busLife := life }

/-- The receive buffer of the F and S rows of spec/95. -/
def nines : List Byte := [0x99#8, 0x99#8, 0x99#8, 0x99#8, 0x99#8, 0x99#8]

/-- What a step shows: outcomes, transactions, receive buffer, REFUSED. -/
def seen : Host.Outcome State Fault Refusal → Option (List Result × List Txn × List Byte × Bool)
  | .next t => some (t.results, t.wire, t.rxbuf, t.refused)
  | .fault _ => none
  | .refused _ => none

/-- One request word offered to a block. -/
def request (s : State) (w : Nat) : Option (List Result × List Txn × List Byte × Bool) :=
  seen (step (s.withFetchWord 16 w))

/-- F2. -/
theorem test_rd1_returns_fourth :
    request (block .absolute nines [.done [0xFF#8, 0xFF#8, 0xFF#8, 0x0C#8]]) 0x0200 =
      some ([.ok (.byte 0x0C#8)], [[.xfer [0xA2#8, 0xFB#8, 0xFB#8, 0xFB#8]]], [0x0C#8], false) := by decide

/-- S7. -/
theorem test_rd1_error :
    request (block .absolute nines [.fail ⟨5⟩]) 0x0200 =
      some ([.transportError ⟨5⟩], [[.xfer [0xA2#8, 0xFB#8, 0xFB#8, 0xFB#8]]], nines, false) := by decide

/-- F5. -/
theorem test_rdn_six :
    request (block .absolute nines [.done [], .done [1#8, 2#8, 3#8, 4#8, 5#8, 6#8]]) 0x3206 =
      some ([.ok (.bytes [1#8, 2#8, 3#8, 4#8, 5#8, 6#8])],
        [[.write [0xB2#8, 0xFC#8, 0xFC#8], .xfer [0xFC#8, 0xFC#8, 0xFC#8, 0xFC#8, 0xFC#8, 0xFB#8]]],
        [1#8, 2#8, 3#8, 4#8, 5#8, 6#8], false) := by decide

/-- F7. -/
theorem test_rdn_one :
    request (block .absolute nines [.done [], .done [0x5A#8]]) 0x2001 =
      some ([.ok (.bytes [0x5A#8])], [[.write [0xA0#8, 0xFC#8, 0xFC#8], .xfer [0xFB#8]]], [0x5A#8], false) := by
  decide

/-- F11: the value is the FILL marker. -/
theorem test_wr_sends_marker_as_data :
    request (block .absolute nines [.done []]) 0x5FFB =
      some ([.ok .unit], [[.write [0x9F#8, 0xFB#8]]], nines, false) := by decide

/-- S8. -/
theorem test_wr_error :
    request (block .absolute nines [.fail ⟨6⟩]) 0x4403 =
      some ([.transportError ⟨6⟩], [[.write [0x84#8, 0x03#8]]], nines, false) := by decide

/-- F13. -/
theorem test_wrd_waits :
    request (block .absolute nines [.done [], .done []]) 0x6781 =
      some ([.ok .unit], [[.write [0x87#8, 0x81#8], .delay 50]], nines, false) := by decide

/-- S9. -/
theorem test_wrd_delay_error :
    request (block .absolute nines [.done [], .fail ⟨7⟩]) 0x6200 =
      some ([.transportError ⟨7⟩], [[.write [0x82#8, 0x00#8], .delay 50]], nines, false) := by decide

/-- A10. -/
theorem test_decabs_fields :
    request (block .absolute [0x2A#8, 0x55#8, 0x80#8, 0x01#8, 0x9C#8, 0x40#8] []) 0x8000 =
      some ([.ok (.absSample ⟨3200#16, 257#16, 0#8, 42#8⟩)], [],
        [0x2A#8, 0x55#8, 0x80#8, 0x01#8, 0x9C#8, 0x40#8], false) := by decide

/-- Q14 and Q15. -/
theorem test_decabs_refused :
    request (block .relative nines []) 0x8000 = some ([.refused .modeMismatch], [], nines, true) ∧
      request (block .absolute [0#8, 0#8, 0#8, 0#8] []) 0x8000 =
        some ([.refused .unwrittenBuffer], [], [0#8, 0#8, 0#8, 0#8], true) :=
  ⟨by decide, by decide⟩

/-- V11: a set and a clear sign bit over the same byte; x = -128, y = 128. -/
theorem test_decrel_signs :
    request (block .relative [0x10#8, 0x80#8, 0x80#8, 0x00#8] []) 0xA000 =
      some ([.ok (.relSample ⟨-128#16, 128#16, 0#8, false, false, false⟩)], [],
        [0x10#8, 0x80#8, 0x80#8, 0x00#8], false) := by decide

/-- Q18 and Q19. -/
theorem test_decrel_refused :
    request (block .absolute [0#8, 0#8, 0#8, 0#8] []) 0xA000 =
        some ([.refused .modeMismatch], [], [0#8, 0#8, 0#8, 0#8], true) ∧
      request (block .relative [0#8] []) 0xA000 = some ([.refused .unwrittenBuffer], [], [0#8], true) :=
  ⟨by decide, by decide⟩

/-- The example of R110. -/
theorem test_sampleAbs :
    request (block .absolute nines
        [.done [], .done [0#8, 0#8, 0x34#8, 0x12#8, 0x5A#8, 0x15#8], .done [], .done []]) 0xC000 =
      some ([.ok (.absSample ⟨2612#16, 1298#16, 21#8, 0#8⟩)],
        [[.write [0xB2#8, 0xFC#8, 0xFC#8], .xfer [0xFC#8, 0xFC#8, 0xFC#8, 0xFC#8, 0xFC#8, 0xFB#8]],
          [.write [0x82#8, 0x00#8], .delay 50]],
        [0#8, 0#8, 0x34#8, 0x12#8, 0x5A#8, 0x15#8], false) := by decide

/-- S4: the read fails at its second step, and no clear is sent. -/
theorem test_sampleAbs_read_error :
    request (block .absolute nines [.done [], .fail ⟨2⟩]) 0xC000 =
      some ([.transportError ⟨2⟩],
        [[.write [0xB2#8, 0xFC#8, 0xFC#8], .xfer [0xFC#8, 0xFC#8, 0xFC#8, 0xFC#8, 0xFC#8, 0xFB#8]]], nines,
        false) := by decide

/-- S2: x = y = -1, wheel = -128. -/
theorem test_sampleRel :
    request (block .relative nines
        [.done [], .done [0x37#8, 0xFF#8, 0xFF#8, 0x80#8], .done [], .done []]) 0xE000 =
      some ([.ok (.relSample ⟨-1#16, -1#16, -128#8, true, true, true⟩)],
        [[.write [0xB2#8, 0xFC#8, 0xFC#8], .xfer [0xFC#8, 0xFC#8, 0xFC#8, 0xFB#8]],
          [.write [0x82#8, 0x00#8], .delay 50]],
        [0x37#8, 0xFF#8, 0xFF#8, 0x80#8], false) := by decide

/-- S5: the clear fails, and the sample is discarded. -/
theorem test_sampleRel_clear_error :
    request (block .relative nines [.done [], .done [0x30#8, 1#8, 2#8, 0#8], .fail ⟨3⟩]) 0xE000 =
      some ([.transportError ⟨3⟩],
        [[.write [0xB2#8, 0xFC#8, 0xFC#8], .xfer [0xFC#8, 0xFC#8, 0xFC#8, 0xFB#8]],
          [.write [0x82#8, 0x00#8]]], nines, false) := by decide

/-! ## The bus monitor -/

/-- What the monitor shows after one byte. -/
def monitor (capture : List WireRole) (b : Nat) : Option (List WireRole) :=
  match step ({ State.reset with capture := capture }.withFetchWord 8 b) with
  | .next t => some t.capture
  | .fault _ => none
  | .refused _ => none

/-- L1-5: 0x82 is `WRITE_CMD(STATUS)`; in the data position it is data (R86). -/
theorem test_cmdWrite :
    monitor [] 0x82 = some [.writeCommand 0x02#5] ∧
      monitor [.writeCommand 0x04#5] 0x82 = some [.writeCommand 0x04#5, .data 0x82#8] := by decide

/-- L1-5: 0xB2 is `READ_CMD(PKT0)`. -/
theorem test_cmdRead : monitor [] 0xB2 = some [.readCommand 0x12#5] := by decide

/-- R76: CONT pads a block read and is no first byte of a transaction (R77). -/
theorem test_cont :
    monitor [.readCommand 0x12#5] 0xFC = some [.readCommand 0x12#5, .cont] ∧
      monitor [] 0xFC = some [.foreign 0xFC#8] := by decide

/-- R86: FILL in a read and in a write. -/
theorem test_fill :
    monitor [.readCommand 0x12#5] 0xFB = some [.readCommand 0x12#5, .fill] ∧
      monitor [.writeCommand 0x1F#5] 0xFB = some [.writeCommand 0x1F#5, .data 0xFB#8] := by decide

/-- The transactions of L1-3, L1-4 and F11 read back. -/
theorem test_frames_read_back :
    readBack (wireRoles [0xA2#8, 0xFB#8, 0xFB#8, 0xFB#8]) = .readOne 0x02#5 ∧
      readBack (wireRoles [0xB2#8, 0xFC#8, 0xFC#8, 0xFC#8, 0xFC#8, 0xFC#8, 0xFC#8, 0xFC#8, 0xFB#8]) =
        .readBlock 0x12#5 6 ∧
      readBack (wireRoles [0x9F#8, 0xFB#8]) = .write 0x1F#5 0xFB#8 := by decide

/-- What the monitor holds after chip-select is released. -/
def released (capture : List WireRole) : Option (List WireRole × List Reading) :=
  match step { State.reset with capture := capture, offers := [.release] } with
  | .next t => some (t.capture, t.readings)
  | .fault _ => none
  | .refused _ => none

/-- R45, R46: a read that broke off after its first step (row S3) is over when chip-select is released. -/
theorem test_release_ends_broken_read :
    released [.readCommand 0x12#5, .cont, .cont] = some ([], [.brokenOff [.readCommand 0x12#5, .cont, .cont]]) := by
  decide

/-- R86: a command after a first byte that is none is no command. -/
theorem test_command_inside_foreign :
    monitor [.foreign 0x7F#8] 0x82 = some [.foreign 0x7F#8, .foreign 0x82#8] := by decide

/-! ## The assembler (R82 to R84) -/

theorem test_assemble_comment_and_case :
    assemble ["; nothing".toList, "  wrd calcfg, 0x81 ; go".toList] = .error (2, .badNumber) ∧
      assemble ["; nothing".toList, "  wrd CALCFG, 0x81 ; go".toList] = .ok [.request 0x6781#16] := by decide

theorem test_assemble_rejects :
    assemble ["RD1 0x06".toList] = .error (1, .badAddress) ∧ assemble ["RDN PKT0, 33".toList] = .error (1, .badLength) ∧
      assemble ["WR FEED1, 256".toList] = .error (1, .badValue) ∧ assemble ["RDN PKT0".toList] = .error (1, .badOperands) ∧
      assemble ["NOP".toList] = .error (1, .unknownMnemonic) := by decide

theorem test_assemble_literals :
    assemble ["RDN 0b10010, 6".toList, "RD1 31".toList] = .ok [.request 0x3206#16, .request 0x1F00#16] := by decide

/-! ## Witnesses: concrete states and operands that meet the hypotheses of each statement, clause by clause -/

/-- A request word offered to `s`, alone. -/
def offering (s : State) (w : Word) : State := s.withOffers [.code (.request w)]

/-- The bytes of an absolute and of a relative sample. -/
def six : List Byte := [1#8, 2#8, 3#8, 4#8, 5#8, 6#8]
def four : List Byte := [1#8, 2#8, 3#8, 4#8]

/-- Answers that complete a read of the given bytes and a clear. -/
def allDone (data : List Byte) : List Answer := [.done [], .done data, .done [], .done []]

theorem completes_of_some {s : State} {k : Nat} (h : s.busLife = some k) : completes s k := by
  intro life hl; rw [h] at hl; cases hl; exact Nat.le_refl k

theorem witness_DecodeOfEncode : (Instr.rdn 0x1F#5 32#8).WellFormed ∧ (Instr.rdn 0x00#5 1#8).WellFormed := by decide

theorem witness_EncodeOfDecode :
    decode (.request 0x3220#16) = .ok (.rdn 0x12#5 32#8) ∧ decode (.wire 0xBF#8) = .ok (.cmdRead 0x1F#5) := by decide

/-- A word of each kind of operation, RDN with the longest block among them. -/
theorem witness_EveryOtherWord : ∀ w ∈ [0x1F00#16, 0x3220#16, 0x2001#16, 0x5FFF#16, 0x6200#16, 0x8000#16, 0xE000#16],
    (w.extractLsb' 13 3 = 0b000#3 → w.extractLsb' 0 8 = 0#8) ∧
    (4 ≤ (w.extractLsb' 13 3).toNat → w.extractLsb' 8 5 = 0#5 ∧ w.extractLsb' 0 8 = 0#8) ∧
    ((w.extractLsb' 13 3).toNat ≤ 3 → w.extractLsb' 8 5 ∈ addrSet) ∧
    (w.extractLsb' 13 3 = 0b001#3 →
      1 ≤ (w.extractLsb' 0 8).toNat ∧ (w.extractLsb' 0 8).toNat ≤ Config.maxBlock) := by
  intro w h
  simp only [List.mem_cons, List.not_mem_nil, or_false] at h
  rcases h with rfl | rfl | rfl | rfl | rfl | rfl | rfl <;> decide

/-- The shortest block has padding at both ends of the range. -/
theorem witness_ReadFramesEndWithFill : 1 ≤ 1 ∧ (1 ≤ 1 ∧ 1 < 2 + 1) ∧ (1 ≤ 2 ∧ 2 < 2 + 1) := by decide

theorem witness_StepRunsTheDecodedInstruction :
    (offering State.reset 0xC000#16).offers = .code (.request 0xC000#16) :: [] ∧
      decode (.request 0xC000#16) = .ok .sampleAbs := by decide

theorem witness_IdleStepHoldsTheState : State.reset.offers = [] := rfl

theorem witness_ConstructionSetsTheResetValues :
    (State.reset.withOffers [.construct .relative]).offers = .construct .relative :: [] := rfl

/-- RD1 with an argument, and an operation without operands with either field nonzero. -/
theorem witness_ReservedFieldIsRefused :
    (offering State.reset 0x0601#16).offers = .code (.request 0x0601#16) :: [] ∧
    ∀ w ∈ [0x0601#16, 0x8100#16, 0xE001#16],
      (w.extractLsb' 13 3 = 0b000#3 ∧ w.extractLsb' 0 8 ≠ 0#8) ∨
        (4 ≤ (w.extractLsb' 13 3).toNat ∧ (w.extractLsb' 8 5 ≠ 0#5 ∨ w.extractLsb' 0 8 ≠ 0#8)) := by
  refine ⟨rfl, ?_⟩
  simp only [List.mem_cons, List.not_mem_nil, or_false, forall_eq_or_imp, forall_eq]
  decide

theorem witness_UnlistedAddressIsRefused : ∀ w ∈ [0x0600#16, 0x2E00#16, 0x5300#16, 0x7EFF#16],
    (w.extractLsb' 13 3).toNat ≤ 3 ∧ (w.extractLsb' 13 3 = 0b000#3 → w.extractLsb' 0 8 = 0#8) ∧
    (w.extractLsb' 8 5) ∈
      [0x06#5, 0x08#5, 0x0E#5, 0x0F#5, 0x10#5, 0x11#5, 0x13#5, 0x14#5, 0x15#5, 0x16#5, 0x17#5, 0x18#5, 0x19#5,
        0x1A#5, 0x1B#5, 0x1C#5, 0x1D#5, 0x1E#5] := by
  intro w h
  simp only [List.mem_cons, List.not_mem_nil, or_false] at h
  rcases h with rfl | rfl | rfl | rfl <;> decide

/-- N = 0, and N just above MAX_BLOCK. -/
theorem witness_BadLengthIsRefused : ∀ w ∈ [0x3200#16, 0x3221#16],
    w.extractLsb' 13 3 = 0b001#3 ∧ listed (w.extractLsb' 8 5) = true ∧
    ((w.extractLsb' 0 8).toNat = 0 ∨ Config.maxBlock < (w.extractLsb' 0 8).toNat) := by
  simp only [List.mem_cons, List.not_mem_nil, or_false, forall_eq_or_imp, forall_eq]
  decide

theorem witness_Rd1 :
    listed 0x02#5 = true ∧ completes (block .absolute nines [.done [0xFF#8]] (some 1)) 1 ∧
      answerAt (block .absolute nines [.done [0xFF#8]] (some 1)) 0 = .done [0xFF#8] ∧
      answerAt (block .absolute nines [.fail ⟨5⟩] (some 1)) 0 = .fail ⟨5⟩ ∧ listed 0x06#5 = false :=
  ⟨rfl, completes_of_some rfl, rfl, rfl, rfl⟩

/-- The longest and the shortest block; the three ways the transaction can go; a short and a long answer. -/
theorem witness_Rdn :
    listed 0x12#5 = true ∧ (1 ≤ (32#8).toNat ∧ (32#8).toNat ≤ Config.maxBlock) ∧
      (1 ≤ (1#8).toNat ∧ (1#8).toNat ≤ Config.maxBlock) ∧
      completes (block .absolute [] [.done [], .done six] (some 2)) 2 ∧
      answerAt (block .absolute [] [.done [], .done six] (some 2)) 0 = .done [] ∧
      answerAt (block .absolute [] [.done [], .done six] (some 2)) 1 = .done six ∧
      Received 1 6 six six ∧ Received 1 4 six four ∧
      completes (block .absolute [] [.fail ⟨1⟩] (some 1)) 1 ∧
      answerAt (block .absolute [] [.fail ⟨1⟩] (some 1)) 0 = .fail ⟨1⟩ ∧
      answerAt (block .absolute [] [.done [], .fail ⟨2⟩] (some 2)) 1 = .fail ⟨2⟩ ∧ listed 0x13#5 = false ∧
      ((0#8).toNat = 0 ∨ Config.maxBlock < (0#8).toNat) ∧ ((33#8).toNat = 0 ∨ Config.maxBlock < (33#8).toNat) :=
  ⟨rfl, by decide, by decide, completes_of_some rfl, rfl, rfl, ⟨rfl, by decide⟩, ⟨rfl, by decide⟩,
    completes_of_some rfl, rfl, rfl, rfl, by decide, by decide⟩

theorem witness_Wr :
    listed 0x04#5 = true ∧ completes (block .absolute nines [.done []] (some 1)) 1 ∧
      answerAt (block .absolute nines [.done []] (some 1)) 0 = .done [] ∧
      answerAt (block .absolute nines [.fail ⟨6⟩] (some 1)) 0 = .fail ⟨6⟩ ∧ listed 0x08#5 = false :=
  ⟨rfl, completes_of_some rfl, rfl, rfl, rfl⟩

theorem witness_Wrd :
    listed 0x02#5 = true ∧ completes (block .absolute nines [.done [], .done []] (some 2)) 2 ∧
      answerAt (block .absolute nines [.done [], .done []] (some 2)) 0 = .done [] ∧
      answerAt (block .absolute nines [.done [], .done []] (some 2)) 1 = .done [] ∧
      completes (block .absolute nines [.fail ⟨7⟩] (some 1)) 1 ∧
      answerAt (block .absolute nines [.fail ⟨7⟩] (some 1)) 0 = .fail ⟨7⟩ ∧
      answerAt (block .absolute nines [.done [], .fail ⟨7⟩] (some 2)) 1 = .fail ⟨7⟩ ∧ listed 0x1E#5 = false :=
  ⟨rfl, completes_of_some rfl, rfl, rfl, completes_of_some rfl, rfl, rfl, rfl⟩

/-- Both reads of ID complete, with one value each. -/
theorem witness_Rd1AndRdn1 :
    ∃ s t u : State, ∃ v w : Value, exec (.rd1 0x00#5) s = .next t ∧ t.results = s.results ++ [.ok v] ∧
      exec (.rdn 0x00#5 1#8) s = .next u ∧ u.results = s.results ++ [.ok w] :=
  ⟨block .absolute [] [.done four, .done [0x5A#8]], _, _, _, _, rfl, rfl, rfl, rfl⟩

/-- Two relative blocks with the same sample are the same in their last three bytes. -/
theorem witness_RelativeIgnoredBits : decodeRel 0xC8#8 5#8 5#8 0x7F#8 = decodeRel (0xC8#8) 5#8 5#8 0x7F#8 := rfl

/-- A buffer of exactly six, one of five, and the wrong mode. -/
theorem witness_Decabs :
    (block .absolute six []).mode = .absolute ∧
      (block .absolute six []).rxbuf = 1#8 :: 2#8 :: 3#8 :: 4#8 :: 5#8 :: 6#8 :: [] ∧
      (block .relative six []).mode ≠ .absolute ∧ (block .absolute (six.take 5) []).rxlen < 6 := by decide

theorem witness_Decrel :
    (block .relative four []).mode = .relative ∧
      (block .relative four []).rxbuf = 1#8 :: 2#8 :: 3#8 :: 4#8 :: [] ∧
      (block .absolute four []).mode ≠ .relative ∧ (block .relative (four.take 3) []).rxlen < 4 := by decide

theorem witness_SampleAbs :
    (block .absolute [] (allDone six) (some 4)).mode = .absolute ∧
      completes (block .absolute [] (allDone six) (some 4)) 4 ∧
      (∀ k, k < 4 → answerAt (block .absolute [] (allDone six) (some 4)) k = .done (if k = 1 then six else [])) ∧
      Received 1 6 six [1#8, 2#8, 3#8, 4#8, 5#8, 6#8] ∧
      completes (block .absolute [] [.fail ⟨1⟩] (some 1)) 1 ∧
      answerAt (block .absolute [] [.fail ⟨1⟩] (some 1)) 0 = .fail ⟨1⟩ ∧
      completes (block .absolute [] [.done [], .fail ⟨2⟩] (some 2)) 2 ∧
      answerAt (block .absolute [] [.done [], .fail ⟨2⟩] (some 2)) 1 = .fail ⟨2⟩ ∧
      completes (block .absolute [] [.done [], .done six, .fail ⟨3⟩] (some 3)) 3 ∧
      answerAt (block .absolute [] [.done [], .done six, .fail ⟨3⟩] (some 3)) 2 = .fail ⟨3⟩ ∧
      answerAt (block .absolute [] [.done [], .done six, .done [], .fail ⟨4⟩] (some 4)) 3 = .fail ⟨4⟩ ∧
      (block .relative [] []).mode ≠ .absolute :=
  ⟨rfl, completes_of_some rfl, by decide, ⟨rfl, by decide⟩, completes_of_some rfl, rfl, completes_of_some rfl, rfl,
    completes_of_some rfl, rfl, rfl, by decide⟩

theorem witness_SampleRel :
    (block .relative [] (allDone four) (some 4)).mode = .relative ∧
      completes (block .relative [] (allDone four) (some 4)) 4 ∧
      (∀ k, k < 4 → answerAt (block .relative [] (allDone four) (some 4)) k = .done (if k = 1 then four else [])) ∧
      Received 1 4 four [1#8, 2#8, 3#8, 4#8] ∧
      completes (block .relative [] [.fail ⟨1⟩] (some 1)) 1 ∧
      answerAt (block .relative [] [.fail ⟨1⟩] (some 1)) 0 = .fail ⟨1⟩ ∧
      completes (block .relative [] [.done [], .fail ⟨2⟩] (some 2)) 2 ∧
      answerAt (block .relative [] [.done [], .fail ⟨2⟩] (some 2)) 1 = .fail ⟨2⟩ ∧
      completes (block .relative [] [.done [], .done four, .fail ⟨3⟩] (some 3)) 3 ∧
      answerAt (block .relative [] [.done [], .done four, .fail ⟨3⟩] (some 3)) 2 = .fail ⟨3⟩ ∧
      answerAt (block .relative [] [.done [], .done four, .done [], .fail ⟨4⟩] (some 4)) 3 = .fail ⟨4⟩ ∧
      (block .absolute [] []).mode ≠ .relative :=
  ⟨rfl, completes_of_some rfl, by decide, ⟨rfl, by decide⟩, completes_of_some rfl, rfl, completes_of_some rfl, rfl,
    completes_of_some rfl, rfl, rfl, by decide⟩

/-- A block in each mode whose four bus steps all succeed, and no more. -/
theorem witness_SampleIsReadDecodeClear :
    ∀ m : Mode, completes (block m [] (allDone six) (some 4)) 4 ∧
      (∀ k, k < 4 → ∃ bs, answerAt (block m [] (allDone six) (some 4)) k = .done bs) ∧
      (block m [] (allDone six) (some 4)).mode = m := by
  intro m
  refine ⟨completes_of_some rfl, fun k hk => ?_, rfl⟩
  match k with
  | 0 => exact ⟨_, rfl⟩
  | 1 => exact ⟨_, rfl⟩
  | 2 => exact ⟨_, rfl⟩
  | 3 => exact ⟨_, rfl⟩
  | k + 4 => omega

/-- Every instruction has a next state; so has a step that runs one, and a construction. -/
theorem witness_next :
    (∀ i ∈ [Instr.rd1 0x02#5, .rdn 0x12#5 6#8, .wr 0x02#5 0#8, .wrd 0x02#5 0#8, .decabs, .decrel, .sampleAbs, .sampleRel,
        .cmdWrite 0x02#5, .cmdRead 0x02#5, .cont, .fill], ∃ t, exec i (block .absolute six (allDone six)) = .next t) ∧
      (∃ t, step (offering (block .absolute six (allDone six)) 0xC000#16) = .next t) ∧
      ∃ t, step (State.reset.withOffers [.construct .relative]) = .next t := by
  refine ⟨?_, ⟨_, rfl⟩, ⟨_, rfl⟩⟩
  simp only [List.mem_cons, List.not_mem_nil, or_false, forall_eq_or_imp, forall_eq]
  exact ⟨⟨_, rfl⟩, ⟨_, rfl⟩, ⟨_, rfl⟩, ⟨_, rfl⟩, ⟨_, rfl⟩, ⟨_, rfl⟩, ⟨_, rfl⟩, ⟨_, rfl⟩, ⟨_, rfl⟩, ⟨_, rfl⟩, ⟨_, rfl⟩,
    ⟨_, rfl⟩⟩

/-- A request that is refused sets REFUSED, from a state where it is clear. -/
theorem witness_RefusedIsSticky :
    ∃ s t : State, ∃ r, step s = .next t ∧ s.refused = false ∧ t.results = s.results ++ [.refused r] ∧ t.refused = true :=
  ⟨offering State.reset 0x0001#16, _, .reservedField, rfl, rfl, rfl, rfl⟩

/-- A construction clears it. -/
theorem witness_RefusedIsCleared : ∃ s t : State, step s = .next t ∧ s.refused = true ∧ t.refused = false :=
  ⟨{ State.reset with refused := true, offers := [.construct .absolute] }, _, rfl, rfl, rfl⟩

/-- A request word that decodes and one that does not; and an offer that is no request. -/
theorem witness_OneOutcomePerRequest :
    (∀ w ∈ [0x4403#16, 0xFFFF#16], (seen (step (offering (block .absolute six (allDone six)) w))).isSome = true) ∧
      (∃ t v, exec (.rd1 0x02#5) (block .absolute six [.done four]) = .next t ∧
        t.results = (block .absolute six [.done four]).results ++ [.ok v]) ∧
      ∃ t, step (State.reset.withOffers [.code (.wire 0xFB#8)]) = .next t ∧
        ∀ w rest, (State.reset.withOffers [.code (.wire 0xFB#8)]).offers ≠ .code (.request w) :: rest :=
  by
  refine ⟨?_, ⟨_, _, rfl, rfl⟩, ⟨_, rfl, fun w rest h => by cases h⟩⟩
  simp only [List.mem_cons, List.not_mem_nil, or_false, forall_eq_or_imp, forall_eq]
  decide

theorem witness_RefusalHasNoOtherEffect :
    ∃ s t : State, step s = .next t ∧ t.results = s.results ++ [.refused .unwrittenBuffer] :=
  ⟨offering (block .absolute four []) 0x8000#16, _, rfl, rfl⟩

/-- The clear of a SAMPLE fails at its last step. -/
theorem witness_TransportErrorKeepsTheBlock :
    ∃ s t : State, step s = .next t ∧ t.results = s.results ++ [.transportError ⟨4⟩] :=
  ⟨offering (block .absolute nines [.done [], .done six, .done [], .fail ⟨4⟩]) 0xC000#16, _, rfl, rfl⟩

theorem witness_OnlySuccessfulReadsWriteTheBuffer :
    ∃ s t : State, exec .sampleAbs s = .next t ∧ t.rxbuf ≠ s.rxbuf :=
  ⟨block .absolute nines (allDone six), _, rfl, by decide⟩

/-- A well-formed framer request of each kind, one of them ill-formed, runs. -/
theorem witness_FramerFrame :
    ((Instr.rdn 0x12#5 6#8).WellFormed ∧ (Instr.wrd 0x02#5 0#8).WellFormed) ∧
      ∃ t, exec (.rdn 0x12#5 33#8) (block .absolute six []) = .next t := ⟨by decide, ⟨_, rfl⟩⟩

/-- SAMPLE.REL in its own mode. -/
theorem witness_CodecFrame :
    ∃ t, exec .sampleRel (block .relative six (allDone four)) = .next t ∧
      (block .relative six (allDone four)).mode = .relative := ⟨_, rfl, rfl⟩

/-- WRD to STATUS ends in `Ok`, and so does WR. -/
theorem witness_StatusWritesSettleExceptWr :
    (∃ t, exec (.wrd 0x02#5 0#8) (block .absolute [] (allDone [])) = .next t ∧ t.results = [] ++ [.ok .unit]) ∧
      (∀ v, Instr.wrd 0x02#5 0#8 ≠ .wr 0x02#5 v) ∧
      ∃ t, exec (.wr 0x02#5 0#8) (block .absolute [] (allDone [])) = .next t :=
  ⟨⟨_, rfl, rfl⟩, ⟨fun _ h => Instr.noConfusion h, _, rfl⟩⟩

/-- The transport completes exactly four steps; and it stops inside a SAMPLE. -/
theorem witness_OnlyTheTransportStopsTheBlock :
    completes (block .absolute [] (allDone six) (some 4)) 4 ∧
      exec .sampleAbs (block .absolute [] (allDone six) (some 3)) = .fault .transportStuck :=
  ⟨completes_of_some rfl, rfl⟩

theorem witness_StuckTransportStops :
    ∀ m : Mode, (block m [] [] (some 0)).busLife = some 0 ∧ listed 0x12#5 = true ∧ goodLength 32#8 = true ∧
      (block m [] [] (some 0)).mode = m := fun _ => ⟨rfl, rfl, rfl, rfl⟩

theorem witness_DiscardedBytesAreNeverRead :
    listed 0x00#5 = true ∧ goodLength 1#8 = true ∧ (block .absolute [] []).mode = .absolute ∧
      (block .relative [] []).mode = .relative := ⟨rfl, rfl, rfl, rfl⟩

theorem witness_NothingElsePersists :
    Instr.sampleAbs.isRequest = true ∧ ∃ t, exec .sampleAbs (block .absolute [] (allDone six)) = .next t := ⟨rfl, _, rfl⟩

/-- A state that meets the invariant with a full buffer, a transaction that failed on the wire and an open capture. -/
def busy : State :=
  { block .absolute (List.replicate 32 0#8) (allDone six) with
    wire := [[.write [0xB2#8, 0xFC#8, 0xFC#8]]], capture := [.readCommand 0x12#5, .cont]
    offers := [.code (.request 0xC000#16)] }

theorem busy_inv : MachineInv busy where
  buffer := by decide
  wire := by
    intro t ht
    rw [List.mem_singleton.mp ht]
    exact ⟨_, .readBlock 0x12#5 6#8 rfl rfl, by decide, ⟨_, rfl⟩⟩
  capture := by decide

theorem witness_EveryStepKeepsTheInvariant : MachineInv busy ∧ ∃ t, step busy = .next t := ⟨busy_inv, _, rfl⟩

theorem witness_CommandPositionHoldsACommand : MachineInv busy ∧ [.write [0xB2#8, 0xFC#8, 0xFC#8]] ∈ busy.wire :=
  ⟨busy_inv, List.mem_singleton.mpr rfl⟩

/-- A monitor between transactions that is offered the bytes of one and the release of chip-select. -/
def capturing (bs : List Byte) : State :=
  State.reset.withOffers (bs.map (fun b => .code (.wire b)) ++ .release :: [])

/-- The longest block and the shortest, a single read and both writes. -/
theorem witness_MonitorReadsEveryFrameBack :
    (capturing (txnBytes (blockFrame 0x12#5 32))).capture = [] ∧
      (capturing (txnBytes (blockFrame 0x12#5 32))).offers =
        (txnBytes (blockFrame 0x12#5 32)).map (fun b => .code (.wire b)) ++ .release :: [] ∧
      (∃ a n, 1 ≤ n ∧ n ≤ Config.maxBlock ∧ blockFrame 0x12#5 32 = blockFrame a n) ∧
      (∃ a n, 1 ≤ n ∧ n ≤ Config.maxBlock ∧ blockFrame 0x12#5 1 = blockFrame a n) ∧
      (∃ a, readFrame 0x1F#5 = readFrame a) ∧ (∃ a v, writeFrame 0x04#5 0xFB#8 = writeFrame a v) ∧
      ∃ a v, delayedFrame 0x02#5 0#8 = delayedFrame a v :=
  ⟨rfl, rfl, ⟨_, 32, by decide, by decide, rfl⟩, ⟨_, 1, by decide, by decide, rfl⟩, ⟨_, rfl⟩, ⟨_, _, rfl⟩, ⟨_, _, rfl⟩⟩

theorem witness_TransactionsAreReadApart :
    [0x7F#8, 0x82#8] ≠ [] ∧ (capturing [0x7F#8, 0x82#8]).capture = [] ∧
      (capturing [0x7F#8, 0x82#8]).offers = [0x7F#8, 0x82#8].map (fun b => .code (.wire b)) ++ .release :: [] :=
  ⟨by decide, rfl, rfl⟩

/-- The first step of a block read alone, all of a block but its FILL, and the command of a single read and a write. -/
theorem witness_BrokenOffFramesAreReadApart :
    (capturing [0xB2#8, 0xFC#8, 0xFC#8]).capture = [] ∧
      (capturing [0xB2#8, 0xFC#8, 0xFC#8]).offers =
        [0xB2#8, 0xFC#8, 0xFC#8].map (fun b => .code (.wire b)) ++ .release :: [] ∧
      (∃ bs, bs = [0xB2#8, 0xFC#8, 0xFC#8] ∧ bs <+: txnBytes (blockFrame 0x12#5 1) ∧ bs ≠ [] ∧
        bs ≠ txnBytes (blockFrame 0x12#5 1)) ∧
      (∃ bs, bs = (txnBytes (blockFrame 0x12#5 32)).take 34 ∧ bs <+: txnBytes (blockFrame 0x12#5 32) ∧ bs ≠ [] ∧
        bs ≠ txnBytes (blockFrame 0x12#5 32)) ∧
      (∃ bs, bs = [0xA2#8] ∧ bs <+: txnBytes (readFrame 0x02#5) ∧ bs ≠ [] ∧ bs ≠ txnBytes (readFrame 0x02#5)) ∧
      (∃ bs, bs = [0x84#8] ∧ bs <+: txnBytes (writeFrame 0x04#5 3#8) ∧ bs ≠ [] ∧
        bs ≠ txnBytes (writeFrame 0x04#5 3#8)) ∧
      ∃ bs, bs = [0x82#8] ∧ bs <+: txnBytes (delayedFrame 0x02#5 0#8) ∧ bs ≠ [] ∧
        bs ≠ txnBytes (delayedFrame 0x02#5 0#8) :=
  ⟨rfl, rfl, ⟨_, rfl, by decide, by decide, by decide⟩, ⟨_, rfl, List.take_prefix _ _, by decide, by decide⟩,
    ⟨_, rfl, by decide, by decide, by decide⟩, ⟨_, rfl, by decide, by decide, by decide⟩,
    ⟨_, rfl, by decide, by decide, by decide⟩⟩

/-- With nothing captured, and with something. -/
theorem witness_ReleaseEndsTheTransaction :
    (State.reset.withOffers [.release]).offers = .release :: [] ∧ (State.reset.withOffers [.release]).capture = [] ∧
      { busy with offers := [.release] }.offers = .release :: [] ∧ { busy with offers := [.release] }.capture ≠ [] :=
  ⟨rfl, rfl, rfl, by decide⟩

theorem witness_CommandBytesOpenAFrame : State.reset.capture = [] := rfl

/-- An open read; and a read of each kind, the block at both ends of its range, when chip-select is released. -/
theorem witness_MarkersPadARead :
    busy.capture = .readCommand 0x12#5 :: [.cont] ∧
      ∀ l ∈ [[.readCommand 0x12#5, .fill, .fill, .fill],
          .readCommand 0x12#5 :: .cont :: .cont :: (List.replicate 0 .cont ++ [.fill]),
          .readCommand 0x12#5 :: .cont :: .cont :: (List.replicate 31 .cont ++ [.fill])],
        ∃ s : State, s.capture = l ∧ s.offers = .release :: [] ∧ 0 < Config.maxBlock ∧ 31 < Config.maxBlock :=
  ⟨rfl, fun l _ => ⟨{ State.reset with capture := l, offers := [.release] }, rfl, rfl, by decide, by decide⟩⟩

theorem witness_WriteDataMayEqualAMarker :
    (∃ s : State, s.capture = .writeCommand 0x04#5 :: []) ∧
      ∃ s : State, s.offers = .release :: [] ∧ s.capture = [.writeCommand 0x04#5, .data 0xFC#8] :=
  ⟨⟨{ State.reset with capture := [.writeCommand 0x04#5] }, rfl⟩,
    ⟨{ State.reset with capture := [.writeCommand 0x04#5, .data 0xFC#8], offers := [.release] }, rfl, rfl⟩⟩

/-- First bytes just outside the commands' range at either end, with a command after them. -/
theorem witness_ForeignFirstByteIsReported : ∀ b ∈ [0x7F#8, 0xC0#8, 0xFC#8],
    (capturing (b :: [0x82#8])).capture = [] ∧
      (capturing (b :: [0x82#8])).offers = (b :: [0x82#8]).map (fun b => .code (.wire b)) ++ .release :: [] ∧
      b.extractLsb' 5 3 ≠ 0b100#3 ∧ b.extractLsb' 5 3 ≠ 0b101#3 := by
  intro b h
  refine ⟨rfl, rfl, ?_⟩
  revert b
  simp only [List.mem_cons, List.not_mem_nil, or_false, forall_eq_or_imp, forall_eq]
  decide

theorem witness_WireBytesTouchOnlyTheMonitor :
    ∀ i ∈ [Instr.cmdWrite 0#5, .cmdRead 0#5, .cont, .fill], i.isRequest = false := by
  simp only [List.mem_cons, List.not_mem_nil, or_false, forall_eq_or_imp, forall_eq]
  decide

theorem witness_AssembledWordsAreNeverRefused :
    ∃ codes, assemble ["rd1 PRODID".toList] = .ok codes ∧ .request 0x1F00#16 ∈ codes :=
  ⟨[.request 0x1F00#16], by decide, List.mem_singleton.mpr rfl⟩

end Sys2Proof.Tests
end

section
/-! The block's fields after its construction with MODE_INIT (R33). -/

namespace Sys2Proof.Machine.State

@[simp] theorem reset_mode : reset.mode = Config.modeInit := rfl
@[simp] theorem reset_rxbuf : reset.rxbuf = [] := rfl
@[simp] theorem reset_refused : reset.refused = false := rfl

/-- RXLEN counts the bytes that hold a value (R20). -/
theorem rxlen_eq_zero_iff (s : State) : s.rxlen = 0 ↔ s.rxbuf = [] := List.length_eq_zero_iff

/-- Settles O10, field by field; RXLEN and the bytes of RXBUF both come from the empty buffer. -/
theorem resetValues : Obligations.ResetValues := by
  unfold Obligations.ResetValues
  refine ⟨reset_mode, ?rxlen, ?bytes, reset_refused⟩
  case rxlen => exact (rxlen_eq_zero_iff reset).mpr reset_rxbuf
  case bytes =>
    intro k
    rw [reset_rxbuf]
    exact List.getElem?_nil

end Sys2Proof.Machine.State
end

section
/-! Discarded bytes (R49): requests whose answers differ only in positions the block discards. A transaction's run is
compared step by step; a request's end depends on the answers through what its transactions received alone. -/

namespace Sys2Proof.Laws

open Sys2Proof.Machine

/-! One transaction. -/

/-- Two runs of a transaction agree where its first step receives the same from both answers and the later steps agree.
A `Write` or a `Delay` receives nothing from any answer (R43, R44). -/
theorem runSteps_done_congr {st : BusStep} {sts : Txn} {x y : List Byte} {as bs : List Answer} {draws : Nat}
    (hst : st.received draws x = st.received draws y)
    (hsts : runSteps sts as (draws + 1) = runSteps sts bs (draws + 1)) :
    runSteps (st :: sts) (.done x :: as) draws = runSteps (st :: sts) (.done y :: bs) draws := by
  rw [runSteps_done st sts (drawAnswer_cons _ _ _), runSteps_done st sts (drawAnswer_cons _ _ _), hst,
    List.tail_cons, List.tail_cons, hsts]

/-- What a request does after a transaction depends on the answers only through the transaction's run. -/
theorem busTxn_congr {s : State} {t : Txn} {as bs : List Answer}
    (h : runSteps t as s.draws = runSteps t bs s.draws) (k : List (List Byte) → State → State) :
    { s with answers := as }.busTxn t k = { s with answers := bs }.busTxn t k := by
  simp only [State.busTxn, State.busReply, State.afterTxn, h]

/-- No byte received in a block read's first step is read (R49). -/
theorem runSteps_blockFrame_discards (a : Addr) (n : Nat) (x y : List Byte) (rest : List Answer) (draws : Nat) :
    runSteps (blockFrame a n) (.done x :: rest) draws = runSteps (blockFrame a n) (.done y :: rest) draws :=
  runSteps_done_congr rfl rfl

/-- No byte received in a write is read (R49). -/
theorem runSteps_writeFrame_discards (a : Addr) (v : Byte) (x y : List Byte) (rest : List Answer) (draws : Nat) :
    runSteps (writeFrame a v) (.done x :: rest) draws = runSteps (writeFrame a v) (.done y :: rest) draws :=
  runSteps_done_congr rfl rfl

/-- No byte received in a delayed write is read (R49). -/
theorem runSteps_delayedFrame_discards (a : Addr) (v : Byte) (x x' y y' : List Byte) (rest : List Answer)
    (draws : Nat) :
    runSteps (delayedFrame a v) (.done x :: .done x' :: rest) draws =
      runSteps (delayedFrame a v) (.done y :: .done y' :: rest) draws :=
  runSteps_done_congr rfl (runSteps_done_congr rfl rfl)

/-- A completed block read goes on with the bytes of its second step alone. -/
theorem busTxn_blockFrame_done (s : State) (a : Addr) (n : Nat) (x d : List Byte) (rest : List Answer)
    (k : List (List Byte) → State → State) :
    { s with answers := .done x :: .done d :: rest }.busTxn (blockFrame a n) k =
      k [receiveBytes (s.draws + 1) 0 (blockPadding n).length d]
        { s with wire := s.wire ++ [blockFrame a n], answers := rest, draws := s.draws + 2 } := rfl

/-- A completed single read goes on with the four bytes of its exchange. -/
theorem busTxn_readFrame_done (s : State) (a : Addr) (b0 b1 b2 b3 : Byte) (rest : List Answer)
    (k : List (List Byte) → State → State) :
    { s with answers := .done [b0, b1, b2, b3] :: rest }.busTxn (readFrame a) k =
      k [[b0, b1, b2, b3]]
        { s with wire := s.wire ++ [readFrame a], answers := rest, draws := s.draws + 1 } := rfl

/-! One request. -/

/-- How a request stops does not depend on the answers it began with (R114). -/
theorem finish_congr {s t u : State} (as bs : List Answer) (h : t = u) :
    finish { s with answers := as } t = finish { s with answers := bs } u := by
  subst h; rfl

theorem inMode_of_mode {s : State} {m : Mode} (h : s.mode = m) (run : State → State) : s.inMode m run = run s :=
  if_pos h

theorem exec_rd1_of_listed {a : Addr} (h : listed a = true) (s : State) :
    exec (.rd1 a) s = finish s (s.busTxn (readFrame a) fun ins t =>
      (t.setRxbuf [s.inByte ins.flatten 3]).returnOk (.byte (s.inByte ins.flatten 3))) :=
  congrArg (finish s) (checked_of_wellFormed (i := .rd1 a) (if_pos h) s _)

theorem exec_rdn_of_listed {a : Addr} {n : Byte} (h : listed a = true) (hn : goodLength n = true) (s : State) :
    exec (.rdn a n) s = finish s (s.busTxn (blockFrame a n.toNat) fun ins t =>
      (t.setRxbuf ins.flatten).returnOk (.bytes ins.flatten)) :=
  congrArg (finish s) (checked_of_wellFormed (i := .rdn a n) ((if_pos h).trans (if_pos hn)) s _)

theorem exec_wr_of_listed {a : Addr} (v : Byte) (h : listed a = true) (s : State) :
    exec (.wr a v) s = finish s (s.busTxn (writeFrame a v) fun _ t => t.returnOk .unit) :=
  congrArg (finish s) (checked_of_wellFormed (i := .wr a v) (if_pos h) s _)

theorem exec_wrd_of_listed {a : Addr} (v : Byte) (h : listed a = true) (s : State) :
    exec (.wrd a v) s = finish s (s.busTxn (delayedFrame a v) fun _ t => t.returnOk .unit) :=
  congrArg (finish s) (checked_of_wellFormed (i := .wrd a v) (if_pos h) s _)

theorem exec_sampleAbs_of_mode {s : State} (h : s.mode = .absolute) :
    exec .sampleAbs s =
      finish s (s.sample 6 fun b => .absSample (decodeAbs (b 0) (b 1) (b 2) (b 3) (b 4) (b 5))) :=
  congrArg (finish s) (inMode_of_mode h _)

theorem exec_sampleRel_of_mode {s : State} (h : s.mode = .relative) :
    exec .sampleRel s = finish s (s.sample 4 fun b => .relSample (decodeRel (b 0) (b 1) (b 2) (b 3))) :=
  congrArg (finish s) (inMode_of_mode h _)

/-- A SAMPLE reads the answer to its one exchange and no byte of its two writes and its delay (R49, R110, R111): its
first transaction goes on alike, and then so does the status clear. -/
theorem sample_discards (s : State) (n : Nat) (f : (Nat → Byte) → Value) (rest : List Answer)
    (x0 x2 x3 y0 y2 y3 d : List Byte) :
    { s with answers := .done x0 :: .done d :: .done x2 :: .done x3 :: rest }.sample n f =
      { s with answers := .done y0 :: .done d :: .done y2 :: .done y3 :: rest }.sample n f := by
  unfold State.sample
  rw [busTxn_blockFrame_done, busTxn_blockFrame_done]
  exact busTxn_congr (s := { s with wire := s.wire ++ [blockFrame Reg.pkt0 n], draws := s.draws + 2 })
    (runSteps_delayedFrame_discards Reg.status 0x00#8 x2 x3 y2 y3 rest (s.draws + 2)) _

/-- Settles O41, request by request: RD1 takes the fourth byte alone, and the other requests' transactions run alike. -/
theorem discardedBytesAreNeverRead : Obligations.DiscardedBytesAreNeverRead := by
  unfold Obligations.DiscardedBytesAreNeverRead
  intro s a v n rest x0 x2 x3 y0 y2 y3 d ha
  refine ⟨?rd1, ?rdn, ?wr, ?wrd, ?sampleAbs, ?sampleRel⟩
  case rd1 =>
    intro b0 b1 b2 c0 c1 c2 v
    rw [exec_rd1_of_listed ha, exec_rd1_of_listed ha, busTxn_readFrame_done, busTxn_readFrame_done]
    exact finish_congr _ _ rfl
  case rdn =>
    intro hn
    rw [exec_rdn_of_listed ha hn, exec_rdn_of_listed ha hn]
    exact finish_congr _ _ (busTxn_congr (runSteps_blockFrame_discards a n.toNat x0 y0 rest s.draws) _)
  case wr =>
    rw [exec_wr_of_listed v ha, exec_wr_of_listed v ha]
    exact finish_congr _ _ (busTxn_congr (runSteps_writeFrame_discards a v x0 y0 rest s.draws) _)
  case wrd =>
    rw [exec_wrd_of_listed v ha, exec_wrd_of_listed v ha]
    exact finish_congr _ _ (busTxn_congr (runSteps_delayedFrame_discards a v x0 x2 y0 y2 rest s.draws) _)
  case sampleAbs =>
    intro hm
    rw [exec_sampleAbs_of_mode, exec_sampleAbs_of_mode]
    · exact finish_congr _ _ (sample_discards s 6 _ rest x0 x2 x3 y0 y2 y3 d)
    all_goals exact hm
  case sampleRel =>
    intro hm
    rw [exec_sampleRel_of_mode, exec_sampleRel_of_mode]
    · exact finish_congr _ _ (sample_discards s 4 _ rest x0 x2 x3 y0 y2 y3 d)
    all_goals exact hm

end Sys2Proof.Laws
end

section
/-! The request decoder row by row (R70, R85), what it refuses (R78 to R80) and that it takes every other word (R81);
and the step that is offered a refused word (R117). -/

namespace Sys2Proof.Laws

open Sys2Proof.Machine

/-! Addresses (R37, R79). -/

theorem listed_iff (a : Addr) : listed a = true ↔ a ∈ addrSet := List.contains_iff_mem

/-- The eighteen addresses R79 lists by number. -/
def unlistedAddrs : List Addr :=
  [0x06#5, 0x08#5, 0x0E#5, 0x0F#5, 0x10#5, 0x11#5, 0x13#5, 0x14#5, 0x15#5, 0x16#5, 0x17#5, 0x18#5, 0x19#5, 0x1A#5,
    0x1B#5, 0x1C#5, 0x1D#5, 0x1E#5]

/-- R79's addresses are exactly those outside `ADDR_SET`. -/
theorem mem_unlistedAddrs_iff : ∀ a : Addr, a ∈ unlistedAddrs ↔ listed a = false := by decide

/-! The rows of the decoder. -/

/-- `OP` names one of the four framer rows, or it is one of the four values of the codec rows (R69). -/
theorem op_cases : ∀ op : BitVec 3,
    op = 0b000#3 ∨ op = 0b001#3 ∨ op = 0b010#3 ∨ op = 0b011#3 ∨ 4 ≤ op.toNat := by decide

theorem op_codec_cases : ∀ {op : BitVec 3}, 4 ≤ op.toNat →
    op = 0b100#3 ∨ op = 0b101#3 ∨ op = 0b110#3 ∨ op = 0b111#3 := by decide

section
variable {w : Word}

theorem decodeRequest_rd1 (hop : opField w = 0b000#3) :
    decodeRequest w =
      if argField w ≠ 0#8 then .error .reservedField
      else if listed (addrField w) then .ok (.rd1 (addrField w)) else .error .unlistedAddress := by
  simp only [decodeRequest, hop]; rfl

theorem decodeRequest_rdn (hop : opField w = 0b001#3) :
    decodeRequest w =
      if listed (addrField w) then
        (if goodLength (argField w) then .ok (.rdn (addrField w) (argField w)) else .error .badLength)
      else .error .unlistedAddress := by
  simp only [decodeRequest, hop]; rfl

theorem decodeRequest_wr (hop : opField w = 0b010#3) :
    decodeRequest w =
      if listed (addrField w) then .ok (.wr (addrField w) (argField w)) else .error .unlistedAddress := by
  simp only [decodeRequest, hop]; rfl

theorem decodeRequest_wrd (hop : opField w = 0b011#3) :
    decodeRequest w =
      if listed (addrField w) then .ok (.wrd (addrField w) (argField w)) else .error .unlistedAddress := by
  simp only [decodeRequest, hop]; rfl

/-- The four codec rows are one row: `OP` names the instruction, and no field holds an operand (R70). -/
theorem decodeRequest_codec (hop : 4 ≤ (opField w).toNat) :
    ∃ i : Instr, i.WellFormed ∧ encode i = .request (reqWord (opField w) 0#5 0#8) ∧
      decodeRequest w = noOperands (addrField w) (argField w) i := by
  obtain h | h | h | h := op_codec_cases hop
  · exact ⟨.decabs, rfl, by rw [h]; rfl, by simp only [decodeRequest, h]; rfl⟩
  · exact ⟨.decrel, rfl, by rw [h]; rfl, by simp only [decodeRequest, h]; rfl⟩
  · exact ⟨.sampleAbs, rfl, by rw [h]; rfl, by simp only [decodeRequest, h]; rfl⟩
  · exact ⟨.sampleRel, rfl, by rw [h]; rfl, by simp only [decodeRequest, h]; rfl⟩

/-! The refusals, in the order in which they are reported (R119). -/

/-- R78. -/
theorem decodeRequest_reservedField
    (h : (opField w = 0b000#3 ∧ argField w ≠ 0#8) ∨
      (4 ≤ (opField w).toNat ∧ (addrField w ≠ 0#5 ∨ argField w ≠ 0#8))) :
    decodeRequest w = .error .reservedField := by
  obtain ⟨hop, harg⟩ | ⟨hop, hfields⟩ := h
  · rw [decodeRequest_rd1 hop, if_pos harg]
  · obtain ⟨i, -, -, hdec⟩ := decodeRequest_codec hop
    rw [hdec, noOperands, if_pos hfields]

/-- R79, where R78 does not come first. -/
theorem decodeRequest_unlistedAddress (hop : (opField w).toNat ≤ 3)
    (harg : opField w = 0b000#3 → argField w = 0#8) (ha : listed (addrField w) = false) :
    decodeRequest w = .error .unlistedAddress := by
  obtain h | h | h | h | h := op_cases (opField w)
  · simp [decodeRequest_rd1 h, harg h, ha]
  · simp [decodeRequest_rdn h, ha]
  · simp [decodeRequest_wr h, ha]
  · simp [decodeRequest_wrd h, ha]
  · omega

/-- R80, where R79 does not come first. -/
theorem decodeRequest_badLength (hop : opField w = 0b001#3) (ha : listed (addrField w) = true)
    (hn : ¬ goodLength (argField w) = true) : decodeRequest w = .error .badLength := by
  rw [decodeRequest_rdn hop, if_pos ha, if_neg hn]

/-! The words that are not refused (R81). -/

/-- The word with the fields of `w` is `w` (R68). -/
theorem request_reqWord_of_fields {op : BitVec 3} {a : Addr} {arg : Byte} (hop : opField w = op)
    (ha : addrField w = a) (harg : argField w = arg) : Code.request (reqWord op a arg) = .request w := by
  subst hop ha harg
  rw [reqWord_fields]

/-- A word that breaks none of R78, R79 and R80 decodes, and it is the code of what it decodes to. -/
theorem decodeRequest_ok (hrd1 : opField w = 0b000#3 → argField w = 0#8)
    (hcodec : 4 ≤ (opField w).toNat → addrField w = 0#5 ∧ argField w = 0#8)
    (ha : (opField w).toNat ≤ 3 → listed (addrField w) = true)
    (hn : opField w = 0b001#3 → goodLength (argField w) = true) :
    ∃ i : Instr, i.WellFormed ∧ decodeRequest w = .ok i ∧ encode i = .request w := by
  obtain h | h | h | h | h := op_cases (opField w)
  · have hl := ha (by simp [h])
    exact ⟨.rd1 (addrField w), if_pos hl, by simp [decodeRequest_rd1 h, hrd1 h, hl],
      request_reqWord_of_fields h rfl (hrd1 h)⟩
  · have hl := ha (by simp [h])
    exact ⟨.rdn (addrField w) (argField w), (if_pos hl).trans (if_pos (hn h)),
      by simp [decodeRequest_rdn h, hl, hn h], request_reqWord_of_fields h rfl rfl⟩
  · have hl := ha (by simp [h])
    exact ⟨.wr (addrField w) (argField w), if_pos hl, by simp [decodeRequest_wr h, hl],
      request_reqWord_of_fields h rfl rfl⟩
  · have hl := ha (by simp [h])
    exact ⟨.wrd (addrField w) (argField w), if_pos hl, by simp [decodeRequest_wrd h, hl],
      request_reqWord_of_fields h rfl rfl⟩
  · obtain ⟨i, hwf, henc, hdec⟩ := decodeRequest_codec h
    obtain ⟨ha0, harg0⟩ := hcodec h
    exact ⟨i, hwf, by simp [hdec, noOperands, ha0, harg0],
      henc.trans (request_reqWord_of_fields rfl ha0 harg0)⟩

theorem decode_request_ok {i : Instr} (h : decodeRequest w = .ok i) : decode (.request w) = .ok i := by
  rw [decode, h]; rfl

theorem decode_request_error {r : Reason} (h : decodeRequest w = .error r) :
    decode (.request w) = .error (.refused r) := by
  rw [decode, h]; rfl

/-- A step that is offered a word the decoder refuses takes the offer and refuses the request (R117). -/
theorem step_refuse {s : State} {rest : List Offer} {r : Reason} (ho : s.offers = .code (.request w) :: rest)
    (h : decodeRequest w = .error r) : step s = .next ((s.withOffers rest).refuse r) := by
  simp only [step, ho, decode_request_error h]; rfl

end

/-- Settles O3: the word decodes by `decodeRequest_ok`, and what a request word decodes to is a request. -/
theorem everyOtherWordIsARequest : Obligations.EveryOtherWordIsARequest := by
  unfold Obligations.EveryOtherWordIsARequest
  intro w hrd1 hcodec ha hn
  obtain ⟨i, hwf, hdec, henc⟩ := decodeRequest_ok (w := w) hrd1 hcodec
    (fun hop => (listed_iff _).mpr (ha hop)) (fun hop => (goodLength_iff _).mpr (hn hop))
  exact ⟨i, isRequest_of_decodeRequest hdec, hwf, decode_request_ok hdec, henc⟩

/-- Settles O11: a nonzero field that must be 0 is what the decoder reports first (R119). -/
theorem reservedFieldIsRefused : Obligations.ReservedFieldIsRefused := by
  unfold Obligations.ReservedFieldIsRefused
  intro s w rest ho hfield
  exact step_refuse ho (decodeRequest_reservedField hfield)

/-- Settles O12: the addresses R79 lists are outside `ADDR_SET`. -/
theorem unlistedAddressIsRefused : Obligations.UnlistedAddressIsRefused := by
  unfold Obligations.UnlistedAddressIsRefused
  intro s w rest ho hop harg ha
  exact step_refuse ho (decodeRequest_unlistedAddress hop harg ((mem_unlistedAddrs_iff _).mp ha))

/-- Settles O13: a length that is 0 or above `MAX_BLOCK` is not between 1 and `MAX_BLOCK`. -/
theorem badLengthIsRefused : Obligations.BadLengthIsRefused := by
  unfold Obligations.BadLengthIsRefused
  intro s w rest ho hop ha hn
  have hbad : ¬ goodLength (argField w) = true := by
    rw [goodLength_iff, argField]
    omega
  exact step_refuse ho (decodeRequest_badLength hop ha hbad)

end Sys2Proof.Laws
end

section
/-! The bytes of the command positions (R73, R77) and of the read frames (R75, R76). -/

namespace Sys2Proof.Laws

open Sys2Proof.Machine

/-! Command bytes. -/

/-- 100aaaaa. -/
theorem writeCmd_append : ∀ a : Addr, writeCmd a = 0b100#3 ++ a := by decide

/-- 101aaaaa. -/
theorem readCmd_append : ∀ a : Addr, readCmd a = 0b101#3 ++ a := by decide

theorem writeCmd_range : ∀ a : Addr, 0x80 ≤ (writeCmd a).toNat ∧ (writeCmd a).toNat ≤ 0x9F := by decide

theorem readCmd_range : ∀ a : Addr, 0xA0 ≤ (readCmd a).toNat ∧ (readCmd a).toNat ≤ 0xBF := by decide

theorem encode_cmdWrite (a : Addr) : encode (.cmdWrite a) = .wire (writeCmd a) := by rw [writeCmd_append]; rfl

theorem encode_cmdRead (a : Addr) : encode (.cmdRead a) = .wire (readCmd a) := by rw [readCmd_append]; rfl

/-- Settles O5: marker and address share no bit, so their OR is `100` or `101` before the address. -/
theorem commandByteBits : Obligations.CommandByteBits := by
  unfold Obligations.CommandByteBits
  intro a
  obtain ⟨hw0, hw1⟩ := writeCmd_range a
  obtain ⟨hr0, hr1⟩ := readCmd_range a
  exact ⟨rfl, rfl, writeCmd_append a, readCmd_append a, encode_cmdWrite a, encode_cmdRead a, hw0, hw1, hr0, hr1⟩

/-! Read frames. -/

theorem txnBytes_readFrame (a : Addr) :
    txnBytes (readFrame a) = [readCmd a, fillByte, fillByte, fillByte] := rfl

/-- A block read's first two markers and its padding are one row of CONT, which one FILL ends (R76). -/
theorem txnBytes_blockFrame (a : Addr) {n : Nat} (hn : 1 ≤ n) :
    txnBytes (blockFrame a n) = readCmd a :: (List.replicate (n + 1) contByte ++ [fillByte]) := by
  obtain ⟨m, rfl⟩ := Nat.exists_eq_add_of_le' hn
  simp [txnBytes, blockFrame, BusStep.bytes, blockPadding, List.replicate_succ]

/-- Settles O6: a block read's last byte stands after its CONT, and every position between it and the command is in
their row. -/
theorem readFramesEndWithFill : Obligations.ReadFramesEndWithFill := by
  unfold Obligations.ReadFramesEndWithFill
  intro a
  refine ⟨txnBytes_readFrame a, fun n hn => ?_⟩
  rw [txnBytes_blockFrame a hn]
  refine ⟨?length, ?last, ?padding⟩
  case length =>
    simp only [List.length_cons, List.length_append, List.length_replicate, List.length_nil]
    omega
  case last =>
    rw [show 2 + n = (n + 1) + 1 by omega, List.getElem?_cons_succ, List.getElem?_append_right (by simp)]
    simp [fillByte]
  case padding =>
    intro k hk hkn
    obtain ⟨j, rfl⟩ := Nat.exists_eq_add_of_le' hk
    have hj : j < n + 1 := by omega
    rw [List.getElem?_cons_succ, List.getElem?_append_left (by simpa using hj),
      List.getElem?_replicate_of_lt hj]
    rfl

end Sys2Proof.Laws
end

section
/-! The framer's requests (R89 to R92): a request that runs one transaction ends in the state its run leaves, by the
answers to its one or two steps; a request with a bad operand is refused before the bus. -/

namespace Sys2Proof.Laws

open Sys2Proof.Machine Sys2Proof.Safety

/-! The end of a request with one transaction. -/

section
variable {s : State} {t p : Txn} {k : Nat}

/-- A transaction whose run draws `k` answers leaves its run steps on the wire and the answers drawn. -/
theorem afterTxn_of_run {reply : BusReply}
    (hrun : runSteps t s.answers s.draws = ⟨p, reply, s.answers.drop k, s.draws + k⟩) :
    s.afterTxn t = drawn k (sent [p] s) := by
  simp only [State.afterTxn, hrun]; rfl

/-- The transaction succeeds: the request ends as it goes on with the received lists, provided that what it does then
uses no further bus step. -/
theorem finish_busTxn_ok {ins : List (List Byte)} {onOk : List (List Byte) → State → State} {u : State}
    (hrun : runSteps t s.answers s.draws = ⟨p, .ok ins, s.answers.drop k, s.draws + k⟩) (hc : completes s k)
    (hu : onOk ins (drawn k (sent [p] s)) = u) (hdraws : u.draws = s.draws + k) (hlife : u.busLife = s.busLife) :
    finish s (s.busTxn t onOk) = .next (spendLife k u) := by
  have hreply : s.busReply t = .ok ins := congrArg BusRun.reply hrun
  have hend : s.busTxn t onOk = u := by simp only [State.busTxn, hreply, afterTxn_of_run hrun, hu]
  rw [hend]
  exact finish_completes (by omega) hlife hc

/-- A step of the transaction fails: the request ends in its error (R88, R115). -/
theorem finish_busTxn_err {e : BusError} (onOk : List (List Byte) → State → State)
    (hrun : runSteps t s.answers s.draws = ⟨p, .err e, s.answers.drop k, s.draws + k⟩) (hc : completes s k) :
    finish s (s.busTxn t onOk) = .next (spendLife k (drawn k (sent [p] (s.raiseError e)))) := by
  have hreply : s.busReply t = .err e := congrArg BusRun.reply hrun
  have hend : s.busTxn t onOk = drawn k (sent [p] (s.raiseError e)) := by
    simp only [State.busTxn, hreply, afterTxn_of_run hrun]; rfl
  rw [hend]
  exact finish_completes (Nat.add_sub_cancel_left s.draws k) rfl hc

end

/-- A request that breaks an operand condition is refused before any bus activity (R117, R119). -/
theorem exec_of_operandFault {i : Instr} {r : Reason} (h : i.operandFault = some r) (s : State) :
    exec i s = .next (s.refuse r) := by
  have hchecked (run : State → State) : finish s (s.checked i run) = .next (s.refuse r) := by
    rw [State.checked, h]
    exact finish_refuse s r
  cases i with
  | rd1 a => exact hchecked _
  | rdn a n => exact hchecked _
  | wr a v => exact hchecked _
  | wrd a v => exact hchecked _
  | decabs => cases h
  | decrel => cases h
  | sampleAbs => cases h
  | sampleRel => cases h
  | cmdWrite a => cases h
  | cmdRead a => cases h
  | cont => cases h
  | fill => cases h

/-! The frames with their command bytes and markers written out (R73 to R75). -/

theorem readFrame_eq (a : Addr) :
    readFrame a = [.xfer [0xA0#8 ||| a.setWidth 8, 0xFB#8, 0xFB#8, 0xFB#8]] := by
  rw [readFrame, readCmd_eq]; rfl

theorem blockFrame_eq (a : Addr) (n : Nat) :
    blockFrame a n =
      [.write [0xA0#8 ||| a.setWidth 8, 0xFC#8, 0xFC#8], .xfer (List.replicate (n - 1) 0xFC#8 ++ [0xFB#8])] := by
  rw [blockFrame, readCmd_eq]; rfl

theorem writeFrame_eq (a : Addr) (v : Byte) : writeFrame a v = [.write [0x80#8 ||| a.setWidth 8, v]] := by
  rw [writeFrame, writeCmd_eq]

theorem delayedFrame_eq (a : Addr) (v : Byte) :
    delayedFrame a v = [.write [0x80#8 ||| a.setWidth 8, v], .delay 50] := by
  rw [delayedFrame, writeCmd_eq]; rfl

/-! What the two reads take from the received bytes (R42). -/

/-- The byte RD1 takes is the answer's fourth, where it lists one. -/
theorem inByte_fourth (s : State) (bs : List Byte) :
    s.inByte [receiveBytes s.draws 0 4 bs].flatten 3 = bs.getD 3 (Config.freeByte s.draws 3) := by
  rw [List.flatten_singleton]
  exact receiveBytes_getD s.draws 0 4 3 bs _ (by decide)

/-- The bytes RDN takes are those of its second step. -/
theorem flatten_received_block {draw n : Nat} {out bs data : List Byte} (hout : out.length = n)
    (hdata : Received draw n bs data) : ((BusStep.xfer out).received draw bs).flatten = data := by
  rw [(received_iff draw n bs data).mp hdata, ← hout]
  exact List.flatten_singleton

/-! The decoder on the framer's words, field by field (R68 to R70). -/

theorem decodeRequest_rd1_word (a : Addr) (arg : Byte) :
    decodeRequest (0b000#3 ++ a ++ arg) =
      if arg ≠ 0#8 then .error .reservedField else if listed a then .ok (.rd1 a) else .error .unlistedAddress := by
  have h := decodeRequest_rd1 (opField_reqWord 0b000#3 a arg)
  rwa [addrField_reqWord, argField_reqWord] at h

theorem decodeRequest_rdn_word (a : Addr) (n : Byte) :
    decodeRequest (0b001#3 ++ a ++ n) =
      if listed a then (if 1 ≤ n.toNat ∧ n.toNat ≤ Config.maxBlock then .ok (.rdn a n) else .error .badLength)
      else .error .unlistedAddress := by
  have h := decodeRequest_rdn (opField_reqWord 0b001#3 a n)
  simp only [addrField_reqWord, argField_reqWord, goodLength_iff] at h
  exact h

theorem decodeRequest_wr_word (a : Addr) (v : Byte) :
    decodeRequest (0b010#3 ++ a ++ v) = if listed a then .ok (.wr a v) else .error .unlistedAddress := by
  have h := decodeRequest_wr (opField_reqWord 0b010#3 a v)
  rwa [addrField_reqWord, argField_reqWord] at h

theorem decodeRequest_wrd_word (a : Addr) (v : Byte) :
    decodeRequest (0b011#3 ++ a ++ v) = if listed a then .ok (.wrd a v) else .error .unlistedAddress := by
  have h := decodeRequest_wrd (opField_reqWord 0b011#3 a v)
  rwa [addrField_reqWord, argField_reqWord] at h

/-! The requests. -/

/-- Settles O14, by the answer to the one step; the fourth byte received is `inByte_fourth`. -/
theorem rd1ReturnsTheFourthByte : Obligations.Rd1ReturnsTheFourthByte := by
  unfold Obligations.Rd1ReturnsTheFourthByte
  intro s a
  refine ⟨fun ha hc => ?listed, fun ha => exec_of_operandFault (by simp [Instr.operandFault, ha]) s,
    decodeRequest_rd1_word a⟩
  rw [exec_rd1_of_listed ha, readFrame_eq]
  refine ⟨fun bs v hdone hv => ?ok, fun e hfail => ?err⟩
  case ok =>
    rw [hv, ← inByte_fourth]
    exact finish_busTxn_ok (runSteps_one _ hdone) hc rfl rfl rfl
  case err => exact finish_busTxn_err _ (runSteps_first_fails _ _ hfail) hc

/-- Settles O15, by the answers to the two steps; the second step exchanges as many bytes as are asked for. -/
theorem rdnReturnsTheBlock : Obligations.RdnReturnsTheBlock := by
  unfold Obligations.RdnReturnsTheBlock
  rintro s a n first second rfl rfl
  refine ⟨fun ha h1 hmax => ?listed, fun ha => exec_of_operandFault (by simp [Instr.operandFault, ha]) s,
    fun ha hn => exec_of_operandFault ?badLength s, decodeRequest_rdn_word a n⟩
  case badLength =>
    have hbad : ¬ goodLength n = true := by
      rw [goodLength_iff]
      omega
    simp [Instr.operandFault, ha, hbad]
  case listed =>
    rw [exec_rdn_of_listed ha ((goodLength_iff n).mpr ⟨h1, hmax⟩), blockFrame_eq]
    refine ⟨fun b0 b1 data hc h0 hd1 hdata => ?ok, fun e hc h0 => ?firstFails, fun b0 e hc h0 he1 => ?secondFails⟩
    case ok =>
      rw [← flatten_received_block (length_blockPadding n.toNat h1) hdata]
      exact finish_busTxn_ok (runSteps_two _ _ h0 hd1) hc rfl rfl rfl
    case firstFails => exact finish_busTxn_err _ (runSteps_first_fails _ _ h0) hc
    case secondFails => exact finish_busTxn_err _ (runSteps_second_fails _ _ h0 he1) hc

/-- Settles O16, by the answer to the one step. -/
theorem wrSendsCommandAndData : Obligations.WrSendsCommandAndData := by
  unfold Obligations.WrSendsCommandAndData
  intro s a v
  refine ⟨fun ha hc => ?listed, fun ha => exec_of_operandFault (by simp [Instr.operandFault, ha]) s,
    decodeRequest_wr_word a v⟩
  rw [exec_wr_of_listed v ha, writeFrame_eq]
  refine ⟨fun bs hdone => ?ok, fun e hfail => ?err⟩
  case ok => exact finish_busTxn_ok (runSteps_one _ hdone) hc rfl rfl rfl
  case err => exact finish_busTxn_err _ (runSteps_first_fails _ _ hfail) hc

/-- Settles O17, by the answers to the write and to the delay. -/
theorem wrdSendsThenWaits : Obligations.WrdSendsThenWaits := by
  unfold Obligations.WrdSendsThenWaits
  intro s a v
  refine ⟨fun ha => ?listed, fun ha => exec_of_operandFault (by simp [Instr.operandFault, ha]) s,
    decodeRequest_wrd_word a v⟩
  rw [exec_wrd_of_listed v ha, delayedFrame_eq]
  refine ⟨fun b0 b1 hc h0 h1 => ?ok, fun e hc h0 => ?writeFails, fun b0 e hc h0 h1 => ?delayFails⟩
  case ok => exact finish_busTxn_ok (runSteps_two _ _ h0 h1) hc rfl rfl rfl
  case writeFails => exact finish_busTxn_err _ (runSteps_first_fails _ _ h0) hc
  case delayFails => exact finish_busTxn_err _ (runSteps_second_fails _ _ h0 h1) hc

end Sys2Proof.Laws
end

section
/-! The codec's sample layouts (R97 to R105): fields put together from the bytes, and the values they stand for. -/

namespace Sys2Proof.Laws

open Sys2Proof.Machine

/-! The absolute layout (R97 to R100). -/

/-- A high part shifted by a byte shares no bit with the low byte, so OR adds them. -/
theorem toNat_lowByte_or_shifted (lo : Byte) (hi : Word) (h : hi.toNat < 256) :
    (lo.setWidth 16 ||| hi <<< 8).toNat = hi.toNat * 256 + lo.toNat := by
  have hlo : lo.toNat < 2 ^ 8 := lo.isLt
  have hhi : (hi <<< 8).toNat = hi.toNat <<< 8 := by
    rw [BitVec.toNat_shiftLeft, Nat.mod_eq_of_lt]
    rw [Nat.shiftLeft_eq]
    omega
  rw [BitVec.toNat_or, BitVec.toNat_setWidth_of_le (by decide), hhi, Nat.or_comm,
    ← Nat.shiftLeft_add_eq_or_of_lt hlo, Nat.shiftLeft_eq]

/-- R97's mask takes bits 3:0 of `b4`. -/
theorem xHigh_eq : ∀ b4 : Byte, (b4 &&& 0x0F#8).setWidth 16 <<< 8 = (b4.extractLsb' 0 4).setWidth 16 <<< 8 := by
  decide

/-- R98's mask takes bits 6:4 of `b4`, which stand four places up already. -/
theorem yHigh_eq : ∀ b4 : Byte, (b4 &&& 0x70#8).setWidth 16 <<< 4 = (b4.extractLsb' 4 3).setWidth 16 <<< 8 := by
  decide

/-- `x` is the 12-bit value `{b4[3:0], b2}` (R97). -/
theorem absX_toNat (b2 b4 : Byte) : (absX b2 b4).toNat = (b4.extractLsb' 0 4).toNat * 256 + b2.toNat := by
  have hhi : ((b4.extractLsb' 0 4).setWidth 16).toNat = (b4.extractLsb' 0 4).toNat :=
    BitVec.toNat_setWidth_of_le (by decide)
  rw [absX, xHigh_eq, toNat_lowByte_or_shifted _ _ (by omega), hhi]

/-- `y` is the 11-bit value `{b4[6:4], b3}` (R98). -/
theorem absY_toNat (b3 b4 : Byte) : (absY b3 b4).toNat = (b4.extractLsb' 4 3).toNat * 256 + b3.toNat := by
  have hhi : ((b4.extractLsb' 4 3).setWidth 16).toNat = (b4.extractLsb' 4 3).toNat :=
    BitVec.toNat_setWidth_of_le (by decide)
  rw [absY, yHigh_eq, toNat_lowByte_or_shifted _ _ (by omega), hhi]

/-- Six bits are at most 63 (R99, R100). -/
theorem toNat_and_sixBits_le (b : Byte) : (b &&& 0x3F#8).toNat ≤ 63 := by
  rw [BitVec.toNat_and]
  exact Nat.and_le_right

/-- Settles O19, field by field. -/
theorem absoluteFields : Obligations.AbsoluteFields := by
  unfold Obligations.AbsoluteFields
  intro b0 b1 b2 b3 b4 b5
  exact ⟨rfl, absX_toNat b2 b4, rfl, absY_toNat b3 b4, rfl, toNat_and_sixBits_le b5, rfl, toNat_and_sixBits_le b0⟩

/-! The relative layout (R102 to R105). -/

/-- A byte under its sign bit is a 9-bit value in two's complement. -/
theorem toInt_cons_byte (sign : Bool) (b : Byte) :
    (BitVec.cons sign b).toInt = if sign then (b.toNat : Int) - 256 else b.toNat := by
  rw [BitVec.toInt_eq_msb_cond, BitVec.msb_cons, BitVec.toNat_cons']
  cases sign with
  | false => simp
  | true =>
    simp only [if_true, Bool.toNat_true, Nat.shiftLeft_eq]
    omega

/-- A byte in an i16 is not negative. -/
theorem toInt_setWidth_byte (b : Byte) : (b.setWidth 16).toInt = (b.toNat : Int) := by
  rw [BitVec.toInt_setWidth]
  exact Int.bmod_eq_of_le (by omega) (by omega)

/-- Subtracting 256 where the sign bit is set does not wrap in an i16 (R102, R103). -/
theorem relAxis_toInt (sign : Bool) (b : Byte) :
    (relAxis sign b).toInt = if sign then (b.toNat : Int) - 256 else b.toNat := by
  cases sign with
  | false => exact toInt_setWidth_byte b
  | true =>
    change (b.setWidth 16 - 256#16).toInt = (b.toNat : Int) - 256
    rw [BitVec.toInt_sub, toInt_setWidth_byte, show (256#16).toInt = 256 by decide]
    exact Int.bmod_eq_of_le (by omega) (by omega)

/-- An axis is its 9-bit value sign-extended (R102, R103): both stand for the same number. -/
theorem relAxis_eq_signExtend (sign : Bool) (b : Byte) : relAxis sign b = (BitVec.cons sign b).signExtend 16 := by
  apply BitVec.eq_of_toInt_eq
  rw [relAxis_toInt, BitVec.toInt_signExtend_of_le (by decide), toInt_cons_byte]

/-- A byte read as an i8 (R104). -/
theorem toInt_byte (b : Byte) : b.toInt = if b.getLsbD 7 then (b.toNat : Int) - 256 else b.toNat := by
  rw [BitVec.toInt_eq_msb_cond, BitVec.msb_eq_getLsbD_last]
  rfl

/-- Settles O21, field by field. -/
theorem relativeFields : Obligations.RelativeFields := by
  unfold Obligations.RelativeFields
  intro b0 b1 b2 b3
  exact ⟨relAxis_eq_signExtend _ b1, relAxis_toInt _ b1, relAxis_eq_signExtend _ b2, relAxis_toInt _ b2,
    toInt_byte b3, rfl, rfl, rfl⟩

end Sys2Proof.Laws
end

section
/-! The codec's requests (R108 to R111): refused for the mode, or for a short buffer, before any bus activity; else a
decode returns the buffer's sample, and a SAMPLE ends by the answers to its four bus steps. -/

namespace Sys2Proof.Laws

open Sys2Proof.Machine Sys2Proof.Safety

/-! The decoder on the codec's words (R70, R78). -/

theorem decodeRequest_decabs {w : Word} (hop : opField w = 0b100#3) :
    decodeRequest w = noOperands (addrField w) (argField w) .decabs := by
  simp only [decodeRequest, hop]; rfl

theorem decodeRequest_decrel {w : Word} (hop : opField w = 0b101#3) :
    decodeRequest w = noOperands (addrField w) (argField w) .decrel := by
  simp only [decodeRequest, hop]; rfl

theorem decodeRequest_sampleAbs {w : Word} (hop : opField w = 0b110#3) :
    decodeRequest w = noOperands (addrField w) (argField w) .sampleAbs := by
  simp only [decodeRequest, hop]; rfl

theorem decodeRequest_sampleRel {w : Word} (hop : opField w = 0b111#3) :
    decodeRequest w = noOperands (addrField w) (argField w) .sampleRel := by
  simp only [decodeRequest, hop]; rfl

theorem noOperands_eq (a : Addr) (arg : Byte) (i : Instr) :
    noOperands a arg i = if a = 0#5 ∧ arg = 0#8 then .ok i else .error .reservedField := by
  unfold noOperands
  by_cases h : a = 0#5 ∧ arg = 0#8
  · rw [if_pos h, if_neg (by simp [h])]
  · rw [if_neg h, if_pos (not_and_or.mp h)]

/-- The word of a row without operands is its instruction when both fields are 0, and else refused (R78). -/
theorem decodeRequest_codec_word {op : BitVec 3} {i : Instr}
    (hrow : ∀ {w : Word}, opField w = op → decodeRequest w = noOperands (addrField w) (argField w) i)
    (a : Addr) (arg : Byte) :
    decodeRequest (op ++ a ++ arg) = if a = 0#5 ∧ arg = 0#8 then .ok i else .error .reservedField := by
  have h := hrow (opField_reqWord op a arg)
  rwa [addrField_reqWord, argField_reqWord, noOperands_eq] at h

/-! The checks before the bus (R119). -/

/-- A codec request in the other mode is refused (R108 to R111). -/
theorem exec_of_modeMismatch {i : Instr} {m : Mode} {s : State} (hi : modeOf i = some m) (h : s.mode ≠ m) :
    exec i s = .next (s.refuse .modeMismatch) := by
  have hmode (run : State → State) : finish s (s.inMode m run) = .next (s.refuse .modeMismatch) := by
    rw [State.inMode, if_neg h]
    exact finish_refuse s _
  cases i with
  | rd1 a => cases hi
  | rdn a n => cases hi
  | wr a v => cases hi
  | wrd a v => cases hi
  | decabs => cases hi; exact hmode _
  | decrel => cases hi; exact hmode _
  | sampleAbs => cases hi; exact hmode _
  | sampleRel => cases hi; exact hmode _
  | cmdWrite a => cases hi
  | cmdRead a => cases hi
  | cont => cases hi
  | fill => cases hi

theorem exec_decabs_of_mode {s : State} (h : s.mode = .absolute) : exec .decabs s = finish s s.decodeBufferAbs :=
  congrArg (finish s) (inMode_of_mode h _)

theorem exec_decrel_of_mode {s : State} (h : s.mode = .relative) : exec .decrel s = finish s s.decodeBufferRel :=
  congrArg (finish s) (inMode_of_mode h _)

/-! The decodes (R108, R109). -/

/-- An outcome posted without bus activity is the request's end. -/
theorem finish_returnOk (s : State) (v : Value) : finish s (s.returnOk v) = .next (s.returnOk v) :=
  finish_same rfl rfl

section
variable {s : State} {b0 b1 b2 b3 b4 b5 : Byte} {bs : List Byte}

theorem decodeBufferAbs_of_bytes (h : s.rxbuf = b0 :: b1 :: b2 :: b3 :: b4 :: b5 :: bs) :
    s.decodeBufferAbs = s.returnOk (.absSample (decodeAbs b0 b1 b2 b3 b4 b5)) := by
  simp only [State.decodeBufferAbs, h]

theorem decodeBufferRel_of_bytes (h : s.rxbuf = b0 :: b1 :: b2 :: b3 :: bs) :
    s.decodeBufferRel = s.returnOk (.relSample (decodeRel b0 b1 b2 b3)) := by
  simp only [State.decodeBufferRel, h]

end

theorem decodeBufferAbs_of_short {s : State} (h : s.rxlen < 6) : s.decodeBufferAbs = s.refuse .unwrittenBuffer := by
  obtain ⟨b0, b1, b2, b3, b4, b5, bs, hb, -⟩ | ⟨-, hr⟩ := decodeBufferAbs_cases s
  · simp only [State.rxlen, hb, List.length_cons] at h
    omega
  · exact hr

theorem decodeBufferRel_of_short {s : State} (h : s.rxlen < 4) : s.decodeBufferRel = s.refuse .unwrittenBuffer := by
  obtain ⟨b0, b1, b2, b3, bs, hb, -⟩ | ⟨-, hr⟩ := decodeBufferRel_cases s
  · simp only [State.rxlen, hb, List.length_cons] at h
    omega
  · exact hr

/-- Settles O24: the mode is checked first, then the buffer's length. -/
theorem decabsDecodesTheBuffer : Obligations.DecabsDecodesTheBuffer := by
  unfold Obligations.DecabsDecodesTheBuffer
  intro s
  refine ⟨fun b0 b1 b2 b3 b4 b5 bs hm hb => ?decodes, exec_of_modeMismatch rfl, fun hm hlen => ?short,
    decodeRequest_codec_word decodeRequest_decabs⟩
  case decodes =>
    rw [exec_decabs_of_mode hm, decodeBufferAbs_of_bytes hb]
    exact finish_returnOk s _
  case short =>
    rw [exec_decabs_of_mode hm, decodeBufferAbs_of_short hlen]
    exact finish_refuse s _

/-- Settles O25: the mode is checked first, then the buffer's length. -/
theorem decrelDecodesTheBuffer : Obligations.DecrelDecodesTheBuffer := by
  unfold Obligations.DecrelDecodesTheBuffer
  intro s
  refine ⟨fun b0 b1 b2 b3 bs hm hb => ?decodes, exec_of_modeMismatch rfl, fun hm hlen => ?short,
    decodeRequest_codec_word decodeRequest_decrel⟩
  case decodes =>
    rw [exec_decrel_of_mode hm, decodeBufferRel_of_bytes hb]
    exact finish_returnOk s _
  case short =>
    rw [exec_decrel_of_mode hm, decodeBufferRel_of_short hlen]
    exact finish_refuse s _

/-! One transaction of several. -/

section
variable {s : State} {t p : Txn} {k : Nat}

/-- A transaction that succeeds goes on from the state its run leaves. -/
theorem busTxn_of_run_ok {ins : List (List Byte)} (onOk : List (List Byte) → State → State)
    (hrun : runSteps t s.answers s.draws = ⟨p, .ok ins, s.answers.drop k, s.draws + k⟩) :
    s.busTxn t onOk = onOk ins (drawn k (sent [p] s)) := by
  have hreply : s.busReply t = .ok ins := congrArg BusRun.reply hrun
  simp only [State.busTxn, hreply, afterTxn_of_run hrun]

/-- A transaction that fails ends the request in its error, in the state its run leaves (R88). -/
theorem busTxn_of_run_err {e : BusError} (onOk : List (List Byte) → State → State)
    (hrun : runSteps t s.answers s.draws = ⟨p, .err e, s.answers.drop k, s.draws + k⟩) :
    s.busTxn t onOk = (drawn k (sent [p] s)).raiseError e := by
  have hreply : s.busReply t = .err e := congrArg BusRun.reply hrun
  simp only [State.busTxn, hreply, afterTxn_of_run hrun]

end

/-! The SAMPLEs (R110, R111). -/

section
variable {s : State} {n : Nat} {f : (Nat → Byte) → Value} {x0 x1 : List Byte}

/-- The state a SAMPLE's read leaves when it succeeds: the status clear runs from here. -/
def afterRead (n : Nat) (s : State) : State := drawn 2 (sent [blockFrame Reg.pkt0 n] s)

theorem answerAt_afterRead (n : Nat) (s : State) (j : Nat) : answerAt (afterRead n s) j = answerAt s (2 + j) :=
  answerAt_drawn (sent [blockFrame Reg.pkt0 n] s) 2 j

/-- What a transaction draws and sends after the read comes after what the read drew and sent (R54). -/
theorem drawn_sent_afterRead (k n : Nat) (p : Txn) (s : State) :
    drawn k (sent [p] (afterRead n s)) = drawn (2 + k) (sent [blockFrame Reg.pkt0 n, p] s) := by
  simp [afterRead, drawn, sent, Nat.add_assoc]

/-- A SAMPLE whose read succeeds goes on with the status clear. -/
theorem sample_of_read_done {data : List Byte} (hn : 1 ≤ n) (h0 : answerAt s 0 = .done x0)
    (h1 : answerAt s 1 = .done x1) (hdata : Received (s.draws + 1) n x1 data) :
    s.sample n f = (afterRead n s).busTxn clearFrame fun _ u =>
      (u.setRxbuf data).returnOk (f (s.inByte data)) := by
  rw [← flatten_received_block (length_blockPadding n hn) hdata]
  exact busTxn_of_run_ok _ (runSteps_two _ _ h0 h1)

/-- All four steps succeed: the bytes are committed and the sample is returned. -/
theorem finish_sample_ok {x2 x3 data : List Byte} (hn : 1 ≤ n) (hc : completes s 4) (h0 : answerAt s 0 = .done x0)
    (h1 : answerAt s 1 = .done x1) (h2 : answerAt s 2 = .done x2) (h3 : answerAt s 3 = .done x3)
    (hdata : Received (s.draws + 1) n x1 data) :
    finish s (s.sample n f) = .next (spendLife 4 (drawn 4 (sent [blockFrame Reg.pkt0 n, clearFrame]
      ((s.setRxbuf data).returnOk (f (s.inByte data)))))) := by
  have hend : s.sample n f =
      ((drawn 4 (sent [blockFrame Reg.pkt0 n, clearFrame] s)).setRxbuf data).returnOk (f (s.inByte data)) := by
    rw [sample_of_read_done hn h0 h1 hdata, busTxn_of_run_ok (t := clearFrame) _ (runSteps_two _ _
      ((answerAt_afterRead n s 0).trans h2) ((answerAt_afterRead n s 1).trans h3)), drawn_sent_afterRead]
    rfl
  rw [hend]
  exact finish_completes (Nat.add_sub_cancel_left s.draws 4) rfl hc

/-- The read fails: no status clear is sent. -/
theorem finish_sample_readFails {p : Txn} {k : Nat} {e : BusError}
    (hrun : runSteps (blockFrame Reg.pkt0 n) s.answers s.draws = ⟨p, .err e, s.answers.drop k, s.draws + k⟩)
    (hc : completes s k) :
    finish s (s.sample n f) = .next (spendLife k (drawn k (sent [p] (s.raiseError e)))) :=
  finish_busTxn_err _ hrun hc

/-- The status clear fails: the bytes read are lost (R88). -/
theorem finish_sample_clearFails {p : Txn} {k : Nat} {e : BusError} (hn : 1 ≤ n) (h0 : answerAt s 0 = .done x0)
    (h1 : answerAt s 1 = .done x1)
    (hrun : runSteps clearFrame (afterRead n s).answers (afterRead n s).draws =
      ⟨p, .err e, (afterRead n s).answers.drop k, (afterRead n s).draws + k⟩)
    (hc : completes s (2 + k)) :
    finish s (s.sample n f) =
      .next (spendLife (2 + k) (drawn (2 + k) (sent [blockFrame Reg.pkt0 n, p] (s.raiseError e)))) := by
  have hend : s.sample n f = (drawn (2 + k) (sent [blockFrame Reg.pkt0 n, p] s)).raiseError e := by
    rw [sample_of_read_done hn h0 h1 ((received_iff _ _ _ _).mpr rfl), busTxn_of_run_err _ hrun,
      drawn_sent_afterRead]
  rw [hend]
  exact finish_completes (Nat.add_sub_cancel_left s.draws (2 + k)) rfl hc

/-- The write of the status clear fails: its delay is not run. -/
theorem finish_sample_writeFails {e : BusError} (hn : 1 ≤ n) (hc : completes s 3) (h0 : answerAt s 0 = .done x0)
    (h1 : answerAt s 1 = .done x1) (h2 : answerAt s 2 = .fail e) :
    finish s (s.sample n f) = .next (spendLife 3 (drawn 3
      (sent [blockFrame Reg.pkt0 n, [.write [writeCmd Reg.status, 0x00#8]]] (s.raiseError e)))) :=
  finish_sample_clearFails hn h0 h1 (runSteps_first_fails _ _ ((answerAt_afterRead n s 0).trans h2)) hc

/-- The delay of the status clear fails. -/
theorem finish_sample_delayFails {x2 : List Byte} {e : BusError} (hn : 1 ≤ n) (hc : completes s 4)
    (h0 : answerAt s 0 = .done x0) (h1 : answerAt s 1 = .done x1) (h2 : answerAt s 2 = .done x2)
    (h3 : answerAt s 3 = .fail e) :
    finish s (s.sample n f) = .next (spendLife 4 (drawn 4
      (sent [blockFrame Reg.pkt0 n, clearFrame] (s.raiseError e)))) :=
  finish_sample_clearFails hn h0 h1 (runSteps_second_fails _ _ ((answerAt_afterRead n s 0).trans h2)
    ((answerAt_afterRead n s 1).trans h3)) hc

end

/-- Settles O26, by the answers to the four steps; the frames of `RDN PKT0, 6` and of the status clear evaluate to the
bytes the statement writes out. -/
theorem sampleAbsReadsDecodesClears : Obligations.SampleAbsReadsDecodesClears := by
  unfold Obligations.SampleAbsReadsDecodesClears
  rintro s r1 r2 w1 w2 rfl rfl rfl rfl
  refine ⟨fun hm => ?sample, exec_of_modeMismatch rfl, decodeRequest_codec_word decodeRequest_sampleAbs⟩
  rw [exec_sampleAbs_of_mode hm]
  refine ⟨fun x0 x1 x2 x3 b0 b1 b2 b3 b4 b5 hc h0 h1 h2 h3 hdata => ?ok, fun e hc h0 => ?commandFails,
    fun x0 e hc h0 h1 => ?exchangeFails, fun x0 x1 e hc h0 h1 h2 => ?writeFails,
    fun x0 x1 x2 e hc h0 h1 h2 h3 => ?delayFails⟩
  case ok => exact finish_sample_ok (by decide) hc h0 h1 h2 h3 hdata
  case commandFails => exact finish_sample_readFails (runSteps_first_fails _ _ h0) hc
  case exchangeFails => exact finish_sample_readFails (runSteps_second_fails _ _ h0 h1) hc
  case writeFails => exact finish_sample_writeFails (by decide) hc h0 h1 h2
  case delayFails => exact finish_sample_delayFails (by decide) hc h0 h1 h2 h3

/-- Settles O27, as O26: the read is of four bytes, and the sample is the relative layout's. -/
theorem sampleRelReadsDecodesClears : Obligations.SampleRelReadsDecodesClears := by
  unfold Obligations.SampleRelReadsDecodesClears
  rintro s r1 r2 w1 w2 rfl rfl rfl rfl
  refine ⟨fun hm => ?sample, exec_of_modeMismatch rfl, decodeRequest_codec_word decodeRequest_sampleRel⟩
  rw [exec_sampleRel_of_mode hm]
  refine ⟨fun x0 x1 x2 x3 b0 b1 b2 b3 hc h0 h1 h2 h3 hdata => ?ok, fun e hc h0 => ?commandFails,
    fun x0 e hc h0 h1 => ?exchangeFails, fun x0 x1 e hc h0 h1 h2 => ?writeFails,
    fun x0 x1 x2 e hc h0 h1 h2 h3 => ?delayFails⟩
  case ok => exact finish_sample_ok (by decide) hc h0 h1 h2 h3 hdata
  case commandFails => exact finish_sample_readFails (runSteps_first_fails _ _ h0) hc
  case exchangeFails => exact finish_sample_readFails (runSteps_second_fails _ _ h0 h1) hc
  case writeFails => exact finish_sample_writeFails (by decide) hc h0 h1 h2
  case delayFails => exact finish_sample_delayFails (by decide) hc h0 h1 h2 h3

end Sys2Proof.Laws
end

section
/-! Refusals (R117): the outcome a request posts tells its end, so a posted refusal can only come from the update
`State.refuse` of the state with the offer taken. -/

namespace Sys2Proof.Laws

open Sys2Proof.Machine

/-! The outcome of each end (R114). -/

section
variable {i : Instr} {s t u : State}

theorem EndsOk.results {v : Value} (h : EndsOk i s u v) : u.results = s.results ++ [.ok v] := by
  obtain ⟨buf, rfl, -, -⟩ := h.state
  rfl

theorem EndsErr.results {e : BusError} (h : EndsErr i s u e) : u.results = s.results ++ [.transportError e] := by
  obtain ⟨before, p, txn, -, -, -, rfl, -⟩ := h.state
  rfl

/-- An instruction that posts a refusal has refused and done nothing else: the other ends post other outcomes, and the
monitor posts none. -/
theorem eq_refuse_of_exec_refused {r : Reason} (h : exec i s = .next t)
    (hpost : t.results = s.results ++ [.refused r]) : t = s.refuse r := by
  cases exec_next h with
  | monitored b hi hb => simp at hpost
  | refused q hi hq =>
    have hqr : q = r := by simpa using hpost
    rw [hqr]
  | ok u v life hi hok => simp [hok.results] at hpost
  | err u e life hi herr => simp [herr.results] at hpost

/-- Refusing once the offer is taken, with the whole next state written out (R117). -/
theorem refuse_withOffers {o : Offer} {rest : List Offer} (ho : s.offers = o :: rest) (r : Reason) :
    (s.withOffers rest).refuse r =
      { s with offers := s.offers.tail, refused := true, results := s.results ++ [.refused r] } := by
  rw [ho]
  rfl

end

/-- Settles O32, by what the step did: only a word that the decoder rejects and a request that refuses post a refusal. -/
theorem refusalHasNoOtherEffect : Obligations.RefusalHasNoOtherEffect := by
  unfold Obligations.RefusalHasNoOtherEffect
  intro s t r hstep hpost
  cases step_next hstep with
  | idle ho => simp at hpost
  | constructed m rest ho => simp at hpost
  | monitored b c rest ho => simp at hpost
  | released rest ho => simp at hpost
  | rejected w rest q ho =>
    have hqr : q = r := by simpa using hpost
    rw [hqr, refuse_withOffers ho]
  | ran w rest i t ho hi hexec hdid =>
    rw [eq_refuse_of_exec_refused hexec hpost, refuse_withOffers ho]

end Sys2Proof.Laws
end

section
/-! The code's round trip (R67 to R74, R85): an instruction decodes from its own code, and whatever decodes is the code
of the instruction it decodes to. -/

namespace Sys2Proof.Laws

open Sys2Proof.Machine

/-! Well-formedness, in the decoder's terms (R70). -/

theorem wellFormed_rd1_iff (a : Addr) : (Instr.rd1 a).WellFormed ↔ listed a = true := by
  simp [Instr.WellFormed, Instr.operandFault]

theorem wellFormed_rdn_iff (a : Addr) (n : Byte) :
    (Instr.rdn a n).WellFormed ↔ listed a = true ∧ goodLength n = true := by
  by_cases ha : listed a = true <;> simp [Instr.WellFormed, Instr.operandFault, ha]

theorem wellFormed_wr_iff (a : Addr) (v : Byte) : (Instr.wr a v).WellFormed ↔ listed a = true := by
  simp [Instr.WellFormed, Instr.operandFault]

theorem wellFormed_wrd_iff (a : Addr) (v : Byte) : (Instr.wrd a v).WellFormed ↔ listed a = true := by
  simp [Instr.WellFormed, Instr.operandFault]

/-! Decoding a code. -/

theorem decodeWire_writeCmd : ∀ a : Addr, decodeWire (writeCmd a) = .ok (.cmdWrite a) := by decide

theorem decodeWire_readCmd : ∀ a : Addr, decodeWire (readCmd a) = .ok (.cmdRead a) := by decide

/-- Settles O1, row by row: the fields of the encoded word are the row's `OP` and the operands, and a command byte's
low bits are its address. -/
theorem decodeOfEncodeIsTheInstruction : Obligations.DecodeOfEncodeIsTheInstruction := by
  unfold Obligations.DecodeOfEncodeIsTheInstruction
  intro i hwf
  cases i with
  | rd1 a =>
    have ha := (wellFormed_rd1_iff a).mp hwf
    exact decode_request_ok ((decodeRequest_rd1_word a 0#8).trans (by simp [ha]))
  | rdn a n =>
    obtain ⟨ha, hn⟩ := (wellFormed_rdn_iff a n).mp hwf
    exact decode_request_ok ((decodeRequest_rdn_word a n).trans (by simp [ha, (goodLength_iff n).mp hn]))
  | wr a v =>
    have ha := (wellFormed_wr_iff a v).mp hwf
    exact decode_request_ok ((decodeRequest_wr_word a v).trans (if_pos ha))
  | wrd a v =>
    have ha := (wellFormed_wrd_iff a v).mp hwf
    exact decode_request_ok ((decodeRequest_wrd_word a v).trans (if_pos ha))
  | decabs => exact decode_request_ok (decodeRequest_codec_word decodeRequest_decabs 0#5 0#8)
  | decrel => exact decode_request_ok (decodeRequest_codec_word decodeRequest_decrel 0#5 0#8)
  | sampleAbs => exact decode_request_ok (decodeRequest_codec_word decodeRequest_sampleAbs 0#5 0#8)
  | sampleRel => exact decode_request_ok (decodeRequest_codec_word decodeRequest_sampleRel 0#5 0#8)
  | cmdWrite a =>
    rw [encode_cmdWrite]
    exact decodeWire_writeCmd a
  | cmdRead a =>
    rw [encode_cmdRead]
    exact decodeWire_readCmd a
  | cont => rfl
  | fill => rfl

/-! Encoding what was decoded. -/

/-- A word that decodes breaks none of R78, R79 and R80, so it is the code of what it decodes to (R81). -/
theorem encode_of_decodeRequest {w : Word} {i : Instr} (h : decodeRequest w = .ok i) :
    encode i = .request w ∧ i.WellFormed := by
  have not_error {r : Reason} (he : decodeRequest w = .error r) : False := by
    rw [h] at he
    cases he
  have hrd1 (hop : opField w = 0b000#3) : argField w = 0#8 := by
    by_contra harg
    exact not_error (decodeRequest_reservedField (.inl ⟨hop, harg⟩))
  have hcodec (hop : 4 ≤ (opField w).toNat) : addrField w = 0#5 ∧ argField w = 0#8 := by
    by_contra hfields
    exact not_error (decodeRequest_reservedField (.inr ⟨hop, not_and_or.mp hfields⟩))
  have hlisted (hop : (opField w).toNat ≤ 3) : listed (addrField w) = true := by
    by_contra ha
    exact not_error (decodeRequest_unlistedAddress hop hrd1 (by simpa using ha))
  have hlength (hop : opField w = 0b001#3) : goodLength (argField w) = true := by
    by_contra hn
    exact not_error (decodeRequest_badLength hop (hlisted (by simp [hop])) hn)
  obtain ⟨j, hwf, hdec, henc⟩ := decodeRequest_ok hrd1 hcodec hlisted hlength
  obtain rfl : i = j := by
    rw [h] at hdec
    exact Except.ok.inj hdec
  exact ⟨henc, hwf⟩

/-- A wire byte that decodes is a marker, or its top bits name a command and its low bits the address (R73, R74). -/
theorem encode_of_decodeWire {b : Byte} {i : Instr} (h : decodeWire b = .ok i) :
    encode i = .wire b ∧ i.WellFormed := by
  unfold decodeWire at h
  split at h
  · next hb => cases h; exact ⟨congrArg Code.wire hb.symm, rfl⟩
  · split at h
    · next hb => cases h; exact ⟨congrArg Code.wire hb.symm, rfl⟩
    · split at h
      · next hb => cases h; exact ⟨(encode_cmdWrite _).trans (congrArg Code.wire (writeCmd_extract hb)), rfl⟩
      · split at h
        · next hb => cases h; exact ⟨(encode_cmdRead _).trans (congrArg Code.wire (readCmd_extract hb)), rfl⟩
        · cases h

/-- A request word decodes as the request decoder says. -/
theorem decodeRequest_of_decode {w : Word} {i : Instr} (h : decode (.request w) = .ok i) : decodeRequest w = .ok i := by
  cases hw : decodeRequest w with
  | error r => rw [decode_request_error hw] at h; cases h
  | ok j => rw [decode_request_ok hw] at h; cases h; rfl

/-- Settles O2, for request words and for wire bytes. -/
theorem encodeOfDecodeIsTheCode : Obligations.EncodeOfDecodeIsTheCode := by
  unfold Obligations.EncodeOfDecodeIsTheCode
  intro c i h
  cases c with
  | request w => exact encode_of_decodeRequest (decodeRequest_of_decode h)
  | wire b => exact encode_of_decodeWire h

/-- Settles O4 by evaluating the decoder on the twelve words. -/
theorem tableWordsDecode : Obligations.TableWordsDecode := by
  unfold Obligations.TableWordsDecode
  decide

end Sys2Proof.Laws
end

section
/-! The frame of a request (R15, R18, R22 to R24): what each of its ends leaves unchanged, what it posts, and when it
writes the receive buffer. Every rule is read off the three ends of a request. -/

namespace Sys2Proof.Laws

open Sys2Proof.Machine Sys2Proof.Safety

/-! What no request writes. -/

/-- MODE (R18), the offers to come and the bus monitor's fields (log 12) are as before. -/
structure Untouched (s t : State) : Prop where
  mode : t.mode = s.mode
  offers : t.offers = s.offers
  capture : t.capture = s.capture
  readings : t.readings = s.readings

section
variable {i : Instr} {s t u : State}

theorem EndsOk.untouched {v : Value} (h : EndsOk i s u v) : Untouched s u := by
  obtain ⟨buf, rfl, -, -⟩ := h.state
  exact ⟨rfl, rfl, rfl, rfl⟩

theorem EndsErr.untouched {e : BusError} (h : EndsErr i s u e) : Untouched s u := by
  obtain ⟨before, p, txn, -, -, -, rfl, -⟩ := h.state
  exact ⟨rfl, rfl, rfl, rfl⟩

/-- How many bus steps the transport still completes is not among what a request leaves. -/
theorem Untouched.withLife (h : Untouched s u) (life : Option Nat) : Untouched s { u with busLife := life } :=
  ⟨h.mode, h.offers, h.capture, h.readings⟩

theorem exec_untouched (hi : i.isRequest = true) (h : exec i s = .next t) : Untouched s t := by
  cases exec_next h with
  | monitored b hw hb => simp [hi] at hw
  | refused r _ hr => exact ⟨rfl, rfl, rfl, rfl⟩
  | ok u v life _ hok => exact hok.untouched.withLife life
  | err u e life _ herr => exact herr.untouched.withLife life

/-- R18: no instruction writes MODE. -/
theorem exec_mode (h : exec i s = .next t) : t.mode = s.mode := by
  cases hi : i.isRequest with
  | true => exact (exec_untouched hi h).mode
  | false =>
    obtain ⟨b, -, he⟩ := wire_exec i hi s
    rw [he] at h
    cases h
    rfl

/-! The outcome (R24, R114). -/

theorem exec_posts_one (hi : i.isRequest = true) (h : exec i s = .next t) : ∃ r, t.results = s.results ++ [r] := by
  cases exec_next h with
  | monitored b hw hb => simp [hi] at hw
  | refused r _ hr => exact ⟨.refused r, rfl⟩
  | ok u v life _ hok => exact ⟨.ok v, hok.results⟩
  | err u e life _ herr => exact ⟨.transportError e, herr.results⟩

/-- An instruction that posts `Ok` has succeeded. -/
theorem endsOk_of_exec_ok {v : Value} (h : exec i s = .next t) (hpost : t.results = s.results ++ [.ok v]) :
    ∃ u life, t = { u with busLife := life } ∧ EndsOk i s u v := by
  cases exec_next h with
  | monitored b hi hb => simp at hpost
  | refused r hi hr => simp at hpost
  | ok u w life hi hok =>
    obtain rfl : w = v := by simpa [hok.results] using hpost
    exact ⟨u, life, rfl, hok⟩
  | err u e life hi herr => simp [herr.results] at hpost

/-- An instruction that posts a transport error has failed in a bus step. -/
theorem endsErr_of_exec_error {e : BusError} (h : exec i s = .next t)
    (hpost : t.results = s.results ++ [.transportError e]) :
    ∃ u life, t = { u with busLife := life } ∧ EndsErr i s u e := by
  cases exec_next h with
  | monitored b hi hb => simp at hpost
  | refused r hi hr => simp at hpost
  | ok u v life hi hok => simp [hok.results] at hpost
  | err u f life hi herr =>
    obtain rfl : f = e := by simpa [herr.results] using hpost
    exact ⟨u, life, rfl, herr⟩

/-! REFUSED (R23). -/

theorem EndsOk.refused {v : Value} (h : EndsOk i s u v) : u.refused = s.refused := by
  obtain ⟨buf, rfl, -, -⟩ := h.state
  rfl

theorem EndsErr.refused {e : BusError} (h : EndsErr i s u e) : u.refused = s.refused := by
  obtain ⟨before, p, txn, -, -, -, rfl, -⟩ := h.state
  rfl

/-- An instruction refuses, setting REFUSED, or it leaves REFUSED as it is. -/
theorem exec_refused_cases (h : exec i s = .next t) :
    (∃ r, Refuses i s r ∧ t = s.refuse r) ∨ t.refused = s.refused := by
  cases exec_next h with
  | monitored b hi hb => exact .inr rfl
  | refused r hi hr => exact .inl ⟨r, hr, rfl⟩
  | ok u v life hi hok => exact .inr hok.refused
  | err u e life hi herr => exact .inr herr.refused

/-- Well-formed operands, the right mode and no buffer to decode leave no reason to refuse (R118). -/
theorem not_refuses (wf : i.WellFormed) (hm : ∀ m, modeOf i = some m → s.mode = m) (habs : i ≠ .decabs)
    (hrel : i ≠ .decrel) (r : Reason) : ¬ Refuses i s r := by
  rintro (hf | ⟨-, m, him, hne⟩ | ⟨-, -, ⟨rfl, -⟩ | ⟨rfl, -⟩⟩)
  · simp [wf] at hf
  · exact hne (hm m him)
  · exact habs rfl
  · exact hrel rfl

theorem exec_refused_of_not_refuses (hn : ∀ r, ¬ Refuses i s r) (h : exec i s = .next t) :
    t.refused = s.refused := by
  obtain ⟨r, hr, -⟩ | hkeep := exec_refused_cases h
  · exact absurd hr (hn r)
  · exact hkeep

/-! The receive buffer (R22). -/

/-- An instruction leaves the receive buffer, or it is a request that writes it and has succeeded. -/
theorem exec_rxbuf_cases (h : exec i s = .next t) :
    t.rxbuf = s.rxbuf ∨
      (bufferWritten i = some t.rxlen ∧ i.WellFormed ∧ ∃ v, t.results = s.results ++ [.ok v]) := by
  cases exec_next h with
  | monitored b hi hb => exact .inl rfl
  | refused r hi hr => exact .inl rfl
  | ok u v life hi hok =>
    obtain ⟨buf, rfl, hlen, hkeep⟩ := hok.state
    cases hb : bufferWritten i with
    | none => exact .inl (hkeep hb)
    | some n => exact .inr ⟨congrArg some (hlen n hb).symm, hok.wellFormed, v, rfl⟩
  | err u e life hi herr =>
    obtain ⟨before, p, txn, -, -, -, rfl, -⟩ := herr.state
    exact .inl rfl

theorem exec_rxbuf_of_not_written (hb : bufferWritten i = none) (h : exec i s = .next t) : t.rxbuf = s.rxbuf := by
  obtain hkeep | ⟨hw, -⟩ := exec_rxbuf_cases h
  · exact hkeep
  · simp [hb] at hw

theorem reads_of_bufferWritten {n : Nat} (h : bufferWritten i = some n) :
    (∃ a, i = .rd1 a) ∨ (∃ a m, i = .rdn a m) ∨ i = .sampleAbs ∨ i = .sampleRel := by
  cases i with
  | rd1 a => exact .inl ⟨a, rfl⟩
  | rdn a m => exact .inr (.inl ⟨a, m, rfl⟩)
  | sampleAbs => exact .inr (.inr (.inl rfl))
  | sampleRel => exact .inr (.inr (.inr rfl))
  | wr a v => cases h
  | wrd a v => cases h
  | decabs => cases h
  | decrel => cases h
  | cmdWrite a => cases h
  | cmdRead a => cases h
  | cont => cases h
  | fill => cases h

end

/-- A step that is offered a request word refuses it, or runs a request (R85, R117). -/
theorem step_request {s t : State} {w : Word} {rest : List Offer} (ho : s.offers = .code (.request w) :: rest)
    (h : step s = .next t) :
    (∃ r, t = (s.withOffers rest).refuse r) ∨
      ∃ i : Instr, i.isRequest = true ∧ exec i (s.withOffers rest) = .next t := by
  cases hd : decodeRequest w with
  | error r =>
    rw [step_refuse ho hd] at h
    cases h
    exact .inl ⟨r, rfl⟩
  | ok i =>
    have hstep : step s = exec i (s.withOffers rest) := by simp only [step, ho, decode_request_ok hd]
    exact .inr ⟨i, isRequest_of_decodeRequest hd, hstep ▸ h⟩

/-- Settles O29: of the six things a step can do, a construction alone loads MODE. -/
theorem onlyConstructionLoadsMode : Obligations.OnlyConstructionLoadsMode := by
  unfold Obligations.OnlyConstructionLoadsMode
  refine ⟨fun i s t h => exec_mode h, fun s t h => ?step⟩
  cases step_next h with
  | idle ho => exact .inl rfl
  | constructed m rest ho => exact .inr ⟨m, rest, ho, rfl⟩
  | monitored b c rest ho => exact .inl rfl
  | released rest ho => exact .inl (State.monitorRelease_mode _)
  | rejected w rest r ho => exact .inl rfl
  | ran w rest i t ho hi hexec hdid => exact .inl (exec_mode (s := s.withOffers rest) hexec)

/-- A value's type is a matter of the receive buffer alone (R24). -/
theorem valueFits_withLife {i : Instr} {v : Value} {u : State} (h : valueFits i v u) (life : Option Nat) :
    valueFits i v { u with busLife := life } := by
  cases i <;> exact h

/-- Settles O31. -/
theorem oneOutcomePerRequest : Obligations.OneOutcomePerRequest := by
  unfold Obligations.OneOutcomePerRequest
  refine ⟨fun s t w rest ho h => ?request, fun i s t v h hpost => ?value, fun s t h hnone => ?other⟩
  case request =>
    obtain ⟨r, rfl⟩ | ⟨i, hi, hexec⟩ := step_request ho h
    · exact ⟨rfl, .refused r, rfl⟩
    · exact ⟨(exec_untouched hi hexec).offers, exec_posts_one (s := s.withOffers rest) hi hexec⟩
  case value =>
    obtain ⟨u, life, rfl, hok⟩ := endsOk_of_exec_ok h hpost
    exact valueFits_withLife hok.value life
  case other =>
    cases step_next h with
    | idle ho => rfl
    | constructed m rest ho => rfl
    | monitored b c rest ho => rfl
    | released rest ho => exact State.monitorRelease_results _
    | rejected w rest r ho => exact absurd ho (hnone w rest)
    | ran w rest i t ho hi hexec hdid => exact absurd ho (hnone w rest)

/-- A step that posts a transport error ran a request that failed. -/
theorem endsErr_of_step_error {s t : State} {e : BusError} (h : step s = .next t)
    (hpost : t.results = s.results ++ [.transportError e]) :
    ∃ i rest u life, t = { u with busLife := life } ∧ EndsErr i (s.withOffers rest) u e := by
  cases step_next h with
  | idle ho => simp at hpost
  | constructed m rest ho => simp at hpost
  | monitored b c rest ho => simp at hpost
  | released rest ho => simp at hpost
  | rejected w rest r ho => simp at hpost
  | ran w rest i t ho hi hexec hdid => exact ⟨i, rest, endsErr_of_exec_error hexec hpost⟩

/-- Settles O33, from the failed end of the request the step ran. -/
theorem transportErrorKeepsTheBlock : Obligations.TransportErrorKeepsTheBlock := by
  unfold Obligations.TransportErrorKeepsTheBlock
  intro s t e h hpost
  obtain ⟨i, rest, u, life, rfl, herr⟩ := endsErr_of_step_error h hpost
  obtain ⟨before, p, txn, -, -, -, rfl, k, hk, hfail, hdone⟩ := herr.state
  exact ⟨rfl, rfl, rfl, k, congrArg (s.draws + ·) hk, hfail, hdone⟩

/-- Settles O34. -/
theorem onlySuccessfulReadsWriteTheBuffer : Obligations.OnlySuccessfulReadsWriteTheBuffer := by
  unfold Obligations.OnlySuccessfulReadsWriteTheBuffer
  intro i s t h hne
  obtain hkeep | ⟨hb, -, hok⟩ := exec_rxbuf_cases h
  · exact absurd hkeep hne
  · exact ⟨reads_of_bufferWritten hb, hok⟩

/-- The framer's requests have no mode to match. -/
theorem modeOf_framer {i : Instr}
    (h : (∃ a, i = .rd1 a) ∨ (∃ a n, i = .rdn a n) ∨ (∃ a v, i = .wr a v) ∨ (∃ a v, i = .wrd a v)) :
    i.isRequest = true ∧ modeOf i = none := by
  obtain ⟨a, rfl⟩ | ⟨a, n, rfl⟩ | ⟨a, v, rfl⟩ | ⟨a, v, rfl⟩ := h <;> exact ⟨rfl, rfl⟩

/-- A well-formed request that has no mode to match is not refused. -/
theorem not_refuses_of_modeOf_none {i : Instr} {s : State} (wf : i.WellFormed) (hm : modeOf i = none) (r : Reason) :
    ¬ Refuses i s r := by
  refine not_refuses wf ?_ ?_ ?_ r
  · intro m h
    simp [hm] at h
  · rintro rfl
    cases hm
  · rintro rfl
    cases hm

/-- Settles O35. -/
theorem framerFrame : Obligations.FramerFrame := by
  unfold Obligations.FramerFrame
  intro i s t hframer h
  obtain ⟨hi, hm⟩ := modeOf_framer hframer
  obtain ⟨hmode, hoffers, hcapture, hreadings⟩ := exec_untouched hi h
  refine ⟨hmode, hoffers, hcapture, hreadings, fun wf => ?refused, fun hwrite => ?rxbuf⟩
  case refused => exact exec_refused_of_not_refuses (not_refuses_of_modeOf_none wf hm) h
  case rxbuf =>
    obtain ⟨a, v, rfl⟩ | ⟨a, v, rfl⟩ := hwrite <;> exact exec_rxbuf_of_not_written rfl h

/-- A request without transactions that leaves the receive buffer posts a refusal or a value, and does nothing else. -/
theorem exec_of_no_transactions {i : Instr} (hi : i.isRequest = true) (ht : transactions i = [])
    (hb : bufferWritten i = none) (s : State) :
    (∃ r, exec i s = .next (s.refuse r)) ∨ ∃ v, exec i s = .next (s.returnOk v) := by
  obtain ⟨u, hu, ⟨r, -, rfl⟩ | ⟨v, hok⟩ | ⟨e, herr⟩⟩ := request_ends i hi s
  · exact .inl ⟨r, hu.trans (finish_refuse s r)⟩
  · obtain ⟨buf, rfl, -, hkeep⟩ := hok.state
    have hsame : (drawn ([] : List Txn).flatten.length (sent [] s)).setRxbuf s.rxbuf = s := by
      simp [drawn, sent, State.setRxbuf]
    rw [hkeep hb, ht, hsame] at hu
    exact .inr ⟨v, hu.trans (finish_returnOk s v)⟩
  · obtain ⟨before, p, txn, hpre, -⟩ := herr.state
    simp [ht] at hpre

/-- Settles O36. -/
theorem codecFrame : Obligations.CodecFrame := by
  unfold Obligations.CodecFrame
  intro i s t hcodec h
  have hi : i.isRequest = true := by obtain rfl | rfl | rfl | rfl := hcodec <;> rfl
  obtain ⟨hmode, hoffers, hcapture, hreadings⟩ := exec_untouched hi h
  refine ⟨hmode, hoffers, hcapture, hreadings, fun hdecode => ?decode, fun hsample => ?sample⟩
  case decode =>
    have hnone : transactions i = [] ∧ bufferWritten i = none := by obtain rfl | rfl := hdecode <;> exact ⟨rfl, rfl⟩
    obtain ⟨ht, hb⟩ := hnone
    obtain ⟨r, hr⟩ | ⟨v, hv⟩ := exec_of_no_transactions hi ht hb s
    · rw [hr] at h
      cases h
      exact ⟨rfl, rfl, rfl, rfl, rfl⟩
    · rw [hv] at h
      cases h
      exact ⟨rfl, rfl, rfl, rfl, rfl⟩
  case sample =>
    refine exec_refused_of_not_refuses (fun r => ?_) h
    obtain ⟨rfl, hm⟩ | ⟨rfl, hm⟩ := hsample
    · exact not_refuses rfl (fun m hmode => by cases hmode; exact hm) (by decide) (by decide) r
    · exact not_refuses rfl (fun m hmode => by cases hmode; exact hm) (by decide) (by decide) r

end Sys2Proof.Laws
end

section
/-! A request on the bus (R54, R75, R87, R114): what it appends to the wire and draws from the transport's answers,
which status writes settle (R50), and when the transport can stop it. -/

namespace Sys2Proof.Laws

open Sys2Proof.Machine Sys2Proof.Safety

/-! What a request sends (R54). -/

/-- The transactions `ts` were appended to the wire, and one answer was drawn for each of their steps. -/
structure Sends (ts : List Txn) (s t : State) : Prop where
  wire : t.wire = s.wire ++ ts
  draws : t.draws = s.draws + ts.flatten.length
  answers : t.answers = s.answers.drop ts.flatten.length

/-- A request sends at most two transactions: only a SAMPLE sends more than one (R75). -/
theorem length_transactions_le (i : Instr) : (transactions i).length ≤ 2 := by
  cases i <;> simp [transactions]

/-- The two transactions of a SAMPLE are frames of the block. -/
theorem blockFrame_of_mem_sample {n : Byte} (hn : goodLength n = true) {f : Txn}
    (h : f ∈ [blockFrame Reg.pkt0 n.toNat, clearFrame]) : BlockFrame f := by
  obtain rfl | hclear := List.mem_cons.mp h
  · exact .readBlock Reg.pkt0 n rfl hn
  · obtain rfl := List.mem_singleton.mp hclear
    exact .writeDelayed Reg.status 0x00#8 rfl

/-- The transactions of a well-formed request are frames of the block (R87). -/
theorem blockFrame_of_mem_transactions {i : Instr} (wf : i.WellFormed) {f : Txn} (h : f ∈ transactions i) :
    BlockFrame f := by
  cases i with
  | rd1 a =>
    obtain rfl := List.mem_singleton.mp h
    exact .readOne a ((wellFormed_rd1_iff a).mp wf)
  | rdn a n =>
    obtain rfl := List.mem_singleton.mp h
    obtain ⟨ha, hn⟩ := (wellFormed_rdn_iff a n).mp wf
    exact .readBlock a n ha hn
  | wr a v =>
    obtain rfl := List.mem_singleton.mp h
    exact .writeOne a v ((wellFormed_wr_iff a v).mp wf)
  | wrd a v =>
    obtain rfl := List.mem_singleton.mp h
    exact .writeDelayed a v ((wellFormed_wrd_iff a v).mp wf)
  | sampleAbs => exact blockFrame_of_mem_sample (n := 6#8) rfl h
  | sampleRel => exact blockFrame_of_mem_sample (n := 4#8) rfl h
  | decabs => cases h
  | decrel => cases h
  | cmdWrite a => cases h
  | cmdRead a => cases h
  | cont => cases h
  | fill => cases h

theorem onWire_of_blockFrame {f : Txn} (h : BlockFrame f) : OnWire f := by
  have hne : f ≠ [] := by cases h <;> exact List.cons_ne_nil _ _
  exact ⟨f, h, hne, List.prefix_rfl⟩

section
variable {i : Instr} {s t u : State}

theorem EndsOk.sends {v : Value} (h : EndsOk i s u v) : Sends (transactions i) s u := by
  obtain ⟨buf, rfl, -, -⟩ := h.state
  exact ⟨rfl, rfl, rfl⟩

theorem EndsErr.sends {e : BusError} (h : EndsErr i s u e) :
    ∃ (before : List Txn) (p f : Txn), before ++ [f] <+: transactions i ∧ p ≠ [] ∧ p <+: f ∧
      Sends (before ++ [p]) s u := by
  obtain ⟨before, p, f, hpre, hne, hp, rfl, -⟩ := h.state
  exact ⟨before, p, f, hpre, hne, hp, rfl, rfl, rfl⟩

theorem sends_nil_refuse (s : State) (r : Reason) : Sends [] s (s.refuse r) :=
  ⟨(List.append_nil _).symm, rfl, rfl⟩

/-- What is sent until a step fails is on the wire as the block may put it there. -/
theorem onWire_of_mem_failed {before : List Txn} {p f : Txn} (wf : i.WellFormed)
    (hpre : before ++ [f] <+: transactions i) (hne : p ≠ []) (hp : p <+: f) : ∀ x ∈ before ++ [p], OnWire x := by
  intro x hx
  obtain hx | hx := List.mem_append.mp hx
  · exact onWire_of_blockFrame (blockFrame_of_mem_transactions wf (hpre.mem (List.mem_append_left _ hx)))
  · obtain rfl := List.mem_singleton.mp hx
    have hf : f ∈ transactions i := hpre.mem (List.mem_append_right _ (List.mem_singleton_self f))
    exact ⟨f, blockFrame_of_mem_transactions wf hf, hne, hp⟩

/-- Whatever an instruction does, it appends at most two transactions, each a frame of the block or its steps up to a
failing one. -/
theorem exec_sends (h : exec i s = .next t) : ∃ ts, Sends ts s t ∧ ts.length ≤ 2 ∧ ∀ x ∈ ts, OnWire x := by
  have htwo := length_transactions_le i
  cases exec_next h with
  | monitored b hi hb => exact ⟨[], ⟨(List.append_nil _).symm, rfl, rfl⟩, Nat.zero_le _, by simp⟩
  | refused r hi hr => exact ⟨[], sends_nil_refuse s r, Nat.zero_le _, by simp⟩
  | ok u v life hi hok =>
    obtain ⟨hwire, hdraws, hanswers⟩ := hok.sends
    exact ⟨transactions i, ⟨hwire, hdraws, hanswers⟩, htwo,
      fun x hx => onWire_of_blockFrame (blockFrame_of_mem_transactions hok.wellFormed hx)⟩
  | err u e life hi herr =>
    obtain ⟨before, p, f, hpre, hne, hp, hwire, hdraws, hanswers⟩ := herr.sends
    have hlen : (before ++ [p]).length ≤ (transactions i).length := by simpa using hpre.length_le
    exact ⟨before ++ [p], ⟨hwire, hdraws, hanswers⟩, hlen.trans htwo,
      onWire_of_mem_failed herr.wellFormed hpre hne hp⟩

end

/-- Settles O37. -/
theorem wireIsInIssueOrder : Obligations.WireIsInIssueOrder := by
  unfold Obligations.WireIsInIssueOrder
  intro i s t h
  obtain ⟨ts, ⟨hwire, hdraws, hanswers⟩, hlen, -⟩ := exec_sends h
  exact ⟨ts, hwire, hlen, hdraws, hanswers⟩

/-! Status writes (R50, R135). -/

/-- A write command names STATUS only where its address is STATUS. -/
theorem writeCmd_beq_status : ∀ a : Addr, (writeCmd a == writeCmd Reg.status) = decide (a = Reg.status) := by decide

/-- A read command is no write command (R73). -/
theorem readCmd_bne_status : ∀ a : Addr, (readCmd a == writeCmd Reg.status) = false := by decide

theorem settles_readFrame (a : Addr) : settles (readFrame a) = true := rfl

theorem settles_blockFrame (a : Addr) (n : Nat) : settles (blockFrame a n) = true := by
  simp [settles, writesStatus, blockFrame, readCmd_bne_status]

theorem settles_delayedFrame (a : Addr) (v : Byte) : settles (delayedFrame a v) = true := by
  simp [settles, delayedFrame]

theorem settles_writeFrame (a : Addr) (v : Byte) : settles (writeFrame a v) = !decide (a = Reg.status) := by
  simp [settles, writesStatus, writeFrame, writeCmd_beq_status]

theorem settles_of_mem_sample {n : Nat} {f : Txn} (h : f ∈ [blockFrame Reg.pkt0 n, clearFrame]) :
    settles f = true := by
  obtain rfl | hclear := List.mem_cons.mp h
  · exact settles_blockFrame Reg.pkt0 n
  · obtain rfl := List.mem_singleton.mp hclear
    exact settles_delayedFrame Reg.status 0x00#8

/-- Of all requests WR STATUS alone sends a status write that does not wait. -/
theorem settles_of_mem_transactions {i : Instr} (hi : ∀ v, i ≠ .wr Reg.status v) {f : Txn} (h : f ∈ transactions i) :
    settles f = true := by
  cases i with
  | rd1 a =>
    obtain rfl := List.mem_singleton.mp h
    exact settles_readFrame a
  | rdn a n =>
    obtain rfl := List.mem_singleton.mp h
    exact settles_blockFrame a n.toNat
  | wr a v =>
    obtain rfl := List.mem_singleton.mp h
    have ha : a ≠ Reg.status := by
      rintro rfl
      exact hi v rfl
    simp [settles_writeFrame, ha]
  | wrd a v =>
    obtain rfl := List.mem_singleton.mp h
    exact settles_delayedFrame a v
  | sampleAbs => exact settles_of_mem_sample h
  | sampleRel => exact settles_of_mem_sample h
  | decabs => cases h
  | decrel => cases h
  | cmdWrite a => cases h
  | cmdRead a => cases h
  | cont => cases h
  | fill => cases h

/-- WR with a listed address sends its one step, whether that step fails or not (R91). -/
theorem exec_wr_wire {a : Addr} {v : Byte} {s t : State} (ha : listed a = true) (h : exec (.wr a v) s = .next t) :
    t.wire = s.wire ++ [writeFrame a v] := by
  cases exec_next h with
  | monitored b hi hb => cases hi
  | refused r hi hr => exact absurd hr (not_refuses_of_modeOf_none ((wellFormed_wr_iff a v).mpr ha) rfl r)
  | ok u x life hi hok => exact hok.sends.wire
  | err u e life hi herr =>
    obtain ⟨before, p, f, hpre, hne, hp, hsends⟩ := herr.sends
    have hlen : (before ++ [f]).length ≤ [writeFrame a v].length := hpre.length_le
    obtain rfl : before = [] := List.length_eq_zero_iff.mp (by simpa using hlen)
    obtain rfl : f = writeFrame a v := List.mem_singleton.mp (hpre.mem (List.mem_singleton_self f))
    have hwhole : p = writeFrame a v := hp.eq_of_length_le (List.length_pos_of_ne_nil hne)
    rw [← hwhole]
    exact hsends.wire

/-- Settles O38. -/
theorem statusWritesSettleExceptWr : Obligations.StatusWritesSettleExceptWr := by
  unfold Obligations.StatusWritesSettleExceptWr
  refine ⟨fun i s t x h hpost hi => ?settles, fun s t v h => ?wrStatus⟩
  case settles =>
    obtain ⟨u, life, rfl, hok⟩ := endsOk_of_exec_ok h hpost
    exact ⟨transactions i, hok.sends.wire, fun y hy => settles_of_mem_transactions hi hy⟩
  case wrStatus =>
    exact ⟨exec_refused_of_not_refuses (not_refuses_of_modeOf_none rfl rfl) h,
      writeFrame Reg.status v, exec_wr_wire rfl h, settles_writeFrame Reg.status v⟩

/-! When the transport stops a request (R114, I9). -/

/-- The steps of a request that succeeds are at most four: those of a SAMPLE (R110, R111). -/
theorem length_flatten_transactions_le (i : Instr) : (transactions i).flatten.length ≤ 4 := by
  cases i <;> simp [transactions, readFrame, blockFrame, writeFrame, delayedFrame, clearFrame]

/-- A failing request runs no more steps than a successful one. -/
theorem length_flatten_failed_le {i : Instr} {before : List Txn} {p f : Txn} (hpre : before ++ [f] <+: transactions i)
    (hp : p <+: f) : (before ++ [p]).flatten.length ≤ (transactions i).flatten.length := by
  have hall := hpre.flatten.length_le
  have hlast := hp.length_le
  simp only [List.flatten_append, List.flatten_singleton, List.length_append] at hall ⊢
  omega

/-- However a request ends, it ran at most four bus steps, and those before the last one were answered with success. -/
theorem Ends.busSteps {i : Instr} {s u : State} (h : Ends i s u) :
    ∃ k, u.draws = s.draws + k ∧ k ≤ 4 ∧ u.busLife = s.busLife ∧ ∀ j, j + 1 < k → ∃ bs, answerAt s j = .done bs := by
  have hfour := length_flatten_transactions_le i
  obtain ⟨r, -, rfl⟩ | ⟨v, hok⟩ | ⟨e, herr⟩ := h
  · exact ⟨0, rfl, Nat.zero_le _, rfl, by omega⟩
  · obtain ⟨buf, rfl, -, -⟩ := hok.state
    exact ⟨_, rfl, hfour, rfl, fun j hj => hok.answered j (by omega)⟩
  · obtain ⟨before, p, f, hpre, -, hp, rfl, k, hk, -, hdone⟩ := herr.state
    exact ⟨_, rfl, (length_flatten_failed_le hpre hp).trans hfour, rfl, fun j hj => hdone j (by omega)⟩

/-- A request ends, or it stops because it needs more bus steps than the transport completes. -/
theorem finish_cases (s t : State) :
    (∃ u, finish s t = .next u) ∨
      (finish s t = .fault .transportStuck ∧ ∃ life, s.busLife = some life ∧ life < t.draws - s.draws) := by
  unfold finish
  split
  · exact .inl ⟨_, rfl⟩
  · next life hlife =>
    split
    · exact .inl ⟨_, rfl⟩
    · next hmore => exact .inr ⟨rfl, life, hlife, Nat.lt_of_not_le hmore⟩

/-- An instruction ends, or it is a request that needs a bus step the transport never completes. -/
theorem exec_cases (i : Instr) (s : State) :
    (∃ t, exec i s = .next t) ∨
      (exec i s = .fault .transportStuck ∧ i.isRequest = true ∧
        ∃ u life, Ends i s u ∧ s.busLife = some life ∧ life < u.draws - s.draws) := by
  cases hi : i.isRequest with
  | false =>
    obtain ⟨b, -, he⟩ := wire_exec i hi s
    exact .inl ⟨_, he⟩
  | true =>
    obtain ⟨u, hu, hends⟩ := request_ends i hi s
    rw [hu]
    obtain hnext | ⟨hstuck, life, hlife, hmore⟩ := finish_cases s u
    · exact .inl hnext
    · exact .inr ⟨hstuck, rfl, u, life, hends, hlife, hmore⟩

/-- Settles O39: a request that stops ran more steps than the transport completes, so it has fewer than four, and every
step the transport completed was one before the last. -/
theorem onlyTheTransportStopsTheBlock : Obligations.OnlyTheTransportStopsTheBlock := by
  unfold Obligations.OnlyTheTransportStopsTheBlock
  refine ⟨fun i s hc => ?ends, fun i s r h => ?neverRefused, fun i s f h => ?stops⟩
  case ends =>
    obtain hnext | ⟨-, -, u, life, hends, hlife, hmore⟩ := exec_cases i s
    · exact hnext
    · obtain ⟨k, hk, hfour, -, -⟩ := hends.busSteps
      have hlong := hc life hlife
      omega
  case neverRefused =>
    obtain ⟨t, ht⟩ | ⟨hstuck, -⟩ := exec_cases i s
    · rw [ht] at h; cases h
    · rw [hstuck] at h; cases h
  case stops =>
    obtain ⟨t, ht⟩ | ⟨-, hi, u, life, hends, hlife, hmore⟩ := exec_cases i s
    · rw [ht] at h; cases h
    · obtain ⟨k, hk, hfour, -, hdone⟩ := hends.busSteps
      exact ⟨hi, life, hlife, by omega, fun j hj => hdone j (by omega)⟩

/-- A request that is not refused and has a bus step to run stops when the transport completes none. -/
theorem exec_stuck {i : Instr} {s : State} (hi : i.isRequest = true) (hn : ∀ r, ¬ Refuses i s r)
    (hsteps : 0 < (transactions i).flatten.length) (hlife : s.busLife = some 0) :
    exec i s = .fault .transportStuck := by
  obtain ⟨u, hu, hends⟩ := request_ends i hi s
  rw [hu]
  refine finish_stuck hlife ?_
  obtain ⟨r, hr, -⟩ | ⟨v, hok⟩ | ⟨e, herr⟩ := hends
  · exact absurd hr (hn r)
  · have hdraws := hok.sends.draws
    omega
  · obtain ⟨before, p, f, -, hne, -, hsends⟩ := herr.sends
    have hp := List.length_pos_of_ne_nil hne
    have hdraws := hsends.draws
    simp only [List.flatten_append, List.flatten_singleton, List.length_append] at hdraws
    omega

/-- Settles O40, request by request. -/
theorem stuckTransportStops : Obligations.StuckTransportStops := by
  unfold Obligations.StuckTransportStops
  intro s a v n hlife ha hn
  have framer {i : Instr} (hi : i.isRequest = true) (wf : i.WellFormed) (hm : modeOf i = none)
      (hsteps : 0 < (transactions i).flatten.length) : exec i s = .fault .transportStuck :=
    exec_stuck hi (not_refuses_of_modeOf_none wf hm) hsteps hlife
  refine ⟨framer rfl ((wellFormed_rd1_iff a).mpr ha) rfl (Nat.succ_pos _),
    framer rfl ((wellFormed_rdn_iff a n).mpr ⟨ha, hn⟩) rfl (Nat.succ_pos _),
    framer rfl ((wellFormed_wr_iff a v).mpr ha) rfl (Nat.succ_pos _),
    framer rfl ((wellFormed_wrd_iff a v).mpr ha) rfl (Nat.succ_pos _), fun hm => ?sampleAbs, fun hm => ?sampleRel⟩
  case sampleAbs =>
    exact exec_stuck rfl (not_refuses rfl (fun m hmode => by cases hmode; exact hm) (by decide) (by decide))
      (Nat.succ_pos _) hlife
  case sampleRel =>
    exact exec_stuck rfl (not_refuses rfl (fun m hmode => by cases hmode; exact hm) (by decide) (by decide))
      (Nat.succ_pos _) hlife

end Sys2Proof.Laws
end

section
/-! The machine's invariant (R19, R20, R77, R86, R87): it holds at reset and every step keeps it, and with it a command
stands first in every transaction on the wire. -/

namespace Sys2Proof.Laws

open Sys2Proof.Machine Sys2Proof.Safety

/-! The buffer's bound (R19, R20). -/

/-- A well-formed request writes at most `MAX_BLOCK` bytes (R80). -/
theorem bufferWritten_le {i : Instr} (wf : i.WellFormed) {n : Nat} (h : bufferWritten i = some n) :
    n ≤ Config.maxBlock := by
  cases i with
  | rdn a m =>
    obtain ⟨-, hm⟩ := (wellFormed_rdn_iff a m).mp wf
    cases h
    exact ((goodLength_iff m).mp hm).2
  | rd1 a => cases h; decide
  | sampleAbs => cases h; decide
  | sampleRel => cases h; decide
  | wr a v => cases h
  | wrd a v => cases h
  | decabs => cases h
  | decrel => cases h
  | cmdWrite a => cases h
  | cmdRead a => cases h
  | cont => cases h
  | fill => cases h

/-! The invariant, step by step. -/

section
variable {s t : State}

/-- The invariant speaks of the receive buffer, the wire and the capture alone. -/
theorem machineInv_of_same (h : MachineInv s) (hb : t.rxbuf = s.rxbuf) (hw : t.wire = s.wire)
    (hc : t.capture = s.capture) : MachineInv t where
  buffer := by rw [State.rxlen, hb]; exact h.buffer
  wire := by rw [hw]; exact h.wire
  capture := by rw [hc]; exact h.capture

theorem machineInv_withOffers (h : MachineInv s) (os : List Offer) : MachineInv (s.withOffers os) :=
  machineInv_of_same h rfl rfl rfl

theorem machineInv_refuse (h : MachineInv s) (r : Reason) : MachineInv (s.refuse r) :=
  machineInv_of_same h rfl rfl rfl

theorem machineInv_construct (h : MachineInv s) (m : Mode) : MachineInv (s.construct m) :=
  ⟨Nat.zero_le _, h.wire, h.capture⟩

/-- The byte captured next has the role that its position gives it. -/
theorem machineInv_monitorByte (h : MachineInv s) (b : Byte) : MachineInv (s.monitorByte b) where
  buffer := h.buffer
  wire := h.wire
  capture := by
    have hroles := wireRoles_concat (s.capture.map WireRole.byte) b
    rw [← h.capture] at hroles
    simp [hroles]

/-- After a release nothing is captured. -/
theorem machineInv_monitorRelease (h : MachineInv s) : MachineInv s.monitorRelease where
  buffer := by simpa [State.rxlen] using h.buffer
  wire := by simpa using h.wire
  capture := by simp [wireRoles]

/-- A request writes at most `MAX_BLOCK` bytes, sends frames of the block, and leaves the capture. -/
theorem machineInv_exec {i : Instr} (h : MachineInv s) (hi : i.isRequest = true) (he : exec i s = .next t) :
    MachineInv t where
  buffer := by
    obtain hkeep | ⟨hb, wf, -⟩ := exec_rxbuf_cases he
    · rw [State.rxlen, hkeep]
      exact h.buffer
    · exact bufferWritten_le wf hb
  wire := by
    obtain ⟨ts, hsends, -, honwire⟩ := exec_sends he
    rw [hsends.wire]
    intro x hx
    obtain hx | hx := List.mem_append.mp hx
    · exact h.wire x hx
    · exact honwire x hx
  capture := by
    rw [(exec_untouched hi he).capture]
    exact h.capture

end

/-- Settles O43, by what the step did. -/
theorem everyStepKeepsTheInvariant : Obligations.EveryStepKeepsTheInvariant := by
  unfold Obligations.EveryStepKeepsTheInvariant
  intro s t hinv h
  cases step_next h with
  | idle ho => exact hinv
  | constructed m rest ho => exact machineInv_construct (machineInv_withOffers hinv rest) m
  | monitored b c rest ho => exact machineInv_monitorByte (machineInv_withOffers hinv rest) c
  | released rest ho => exact machineInv_monitorRelease (machineInv_withOffers hinv rest)
  | rejected w rest r ho => exact machineInv_refuse (machineInv_withOffers hinv rest) r
  | ran w rest i t ho hi hexec hdid => exact machineInv_exec (machineInv_withOffers hinv rest) hi hexec

/-- Settles O44: nothing is buffered, sent or captured. -/
theorem resetMeetsTheInvariant : Obligations.ResetMeetsTheInvariant where
  buffer := Nat.zero_le _
  wire := fun _ ht => absurd ht List.not_mem_nil
  capture := rfl

/-! The command position (R77). -/

/-- A command byte of a listed address: bits 7 and 6 are 1 and 0, and the low five bits are the address. -/
def IsCommand (c : Byte) : Prop :=
  c.getLsbD 7 = true ∧ c.getLsbD 6 = false ∧ listed (c.extractLsb' 0 5) = true

theorem isCommand_writeCmd : ∀ {a : Addr}, listed a = true → IsCommand (writeCmd a) := by
  unfold IsCommand
  decide

theorem isCommand_readCmd : ∀ {a : Addr}, listed a = true → IsCommand (readCmd a) := by
  unfold IsCommand
  decide

/-- Every frame's first step begins with a command. -/
theorem blockFrame_first_step {f : Txn} (h : BlockFrame f) :
    ∃ (st : BusStep) (sts : Txn) (c : Byte) (bs : List Byte), f = st :: sts ∧ st.bytes = c :: bs ∧ IsCommand c := by
  cases h with
  | readOne a ha => exact ⟨_, _, _, _, rfl, rfl, isCommand_readCmd ha⟩
  | readBlock a n ha hn => exact ⟨_, _, _, _, rfl, rfl, isCommand_readCmd ha⟩
  | writeOne a v ha => exact ⟨_, _, _, _, rfl, rfl, isCommand_writeCmd ha⟩
  | writeDelayed a v ha => exact ⟨_, _, _, _, rfl, rfl, isCommand_writeCmd ha⟩

/-- Settles O45: what is on the wire is a nonempty beginning of a frame, so it has the frame's first step. -/
theorem commandPositionHoldsACommand : Obligations.CommandPositionHoldsACommand := by
  unfold Obligations.CommandPositionHoldsACommand
  intro s t hinv ht
  obtain ⟨f, hf, hne, hprefix⟩ := hinv.wire t ht
  obtain ⟨st, sts, c, bs, rfl, hbytes, hcommand⟩ := blockFrame_first_step hf
  obtain rfl | ⟨tail, rfl, -⟩ := List.prefix_cons_iff.mp hprefix
  · exact absurd rfl hne
  · exact ⟨c, bs ++ txnBytes tail, by simp [txnBytes, hbytes], hcommand⟩

end Sys2Proof.Laws
end

section
/-! The bus monitor (R86): how it reads back the frames of the block, their beginnings, and transactions that are none
of the block's; and its single steps. -/

namespace Sys2Proof.Laws

open Sys2Proof.Machine Sys2Proof.Safety

/-! The roles of the bytes of a frame, by position (R73 to R76). -/

theorem wireRoles_write (a : Addr) (bs : List Byte) :
    wireRoles (writeCmd a :: bs) = .writeCommand a :: bs.map .data := by
  simp [wireRoles]

theorem wireRoles_read_conts (a : Addr) (k : Nat) :
    wireRoles (readCmd a :: List.replicate k contByte) = .readCommand a :: List.replicate k .cont := by
  simp [wireRoles]

theorem wireRoles_read_fills (a : Addr) (k : Nat) :
    wireRoles (readCmd a :: List.replicate k fillByte) = .readCommand a :: List.replicate k .fill := by
  simp [wireRoles]

theorem wireRoles_blockFrame (a : Addr) {n : Nat} (hn : 1 ≤ n) :
    wireRoles (txnBytes (blockFrame a n)) = .readCommand a :: (List.replicate (n + 1) .cont ++ [.fill]) := by
  simp [txnBytes_blockFrame a hn, wireRoles]

/-- After a byte that is no command, all bytes are foreign, the markers and commands among them (R77, R86). -/
theorem wireRoles_foreign {b : Byte} (hw : b.extractLsb' 5 3 ≠ 0b100#3) (hr : b.extractLsb' 5 3 ≠ 0b101#3)
    (bs : List Byte) : wireRoles (b :: bs) = (b :: bs).map .foreign := by
  simp [wireRoles, byteRole, hw, hr]

/-! Roles against the frames (R75, R80). -/

/-- CONT after CONT is the beginning of a block read as long as a block of `MAX_BLOCK` bytes can follow. -/
theorem readBlockTail_conts (a : Addr) {k m : Nat} (h : k + m < Config.maxBlock) :
    readBlockTail a k (List.replicate m .cont) = .beginning := by
  induction m generalizing k with
  | zero => exact if_pos h
  | succ m ih =>
    rw [List.replicate_succ, readBlockTail]
    exact ih (by omega)

/-- FILL after `m` more CONT ends the block. -/
theorem readBlockTail_conts_fill (a : Addr) {k m : Nat} (h : k + m < Config.maxBlock) :
    readBlockTail a k (List.replicate m .cont ++ [.fill]) = .whole (.readBlock a (k + m + 1)) := by
  induction m generalizing k with
  | zero => exact if_pos h
  | succ m ih =>
    rw [List.replicate_succ, List.cons_append, readBlockTail, ih (by omega), show k + 1 + m = k + (m + 1) by omega]

/-- A read command and CONT up to the last byte but one of the longest block begin a frame. -/
theorem frameStatus_conts (a : Addr) {k : Nat} (h : k ≤ Config.maxBlock + 1) :
    frameStatus (.readCommand a :: List.replicate k .cont) = .beginning := by
  match k with
  | 0 => rfl
  | 1 => rfl
  | m + 2 => exact readBlockTail_conts a (by omega)

theorem frameStatus_block (a : Addr) {k : Nat} (h : k < Config.maxBlock) :
    frameStatus (.readCommand a :: .cont :: .cont :: (List.replicate k .cont ++ [.fill])) =
      .whole (.readBlock a (k + 1)) := by
  rw [← Nat.zero_add k] at h
  exact (readBlockTail_conts_fill a h).trans (by rw [Nat.zero_add])

/-- A read command and fewer than three FILL begin the frame of RD1. -/
theorem frameStatus_fills (a : Addr) {k : Nat} (h : k ≤ 2) :
    frameStatus (.readCommand a :: List.replicate k .fill) = .beginning := by
  match k with
  | 0 => rfl
  | 1 => rfl
  | 2 => rfl

/-! Reading back (R86). -/

theorem readBack_of_whole {roles : List WireRole} {r : Reading} (h : frameStatus roles = .whole r) :
    readBack roles = r := by
  rw [readBack, h]

theorem readBack_of_beginning {roles : List WireRole} (h : frameStatus roles = .beginning) :
    readBack roles = .brokenOff roles := by
  rw [readBack, h]

theorem readBack_readFrame (a : Addr) : readBack (wireRoles (txnBytes (readFrame a))) = .readOne a :=
  congrArg readBack (wireRoles_read_fills a 3)

theorem readBack_blockFrame (a : Addr) {n : Nat} (h1 : 1 ≤ n) (hmax : n ≤ Config.maxBlock) :
    readBack (wireRoles (txnBytes (blockFrame a n))) = .readBlock a n := by
  obtain ⟨k, rfl⟩ := Nat.exists_eq_add_of_le' h1
  rw [wireRoles_blockFrame a h1, List.replicate_succ, List.replicate_succ]
  exact readBack_of_whole (frameStatus_block a (by omega))

theorem readBack_write (a : Addr) (v : Byte) : readBack (wireRoles [writeCmd a, v]) = .write a v := by
  rw [wireRoles_write]
  rfl

/-- A transaction whose first byte is no command is reported as foreign, all of it. -/
theorem readBack_foreign {b : Byte} (hw : b.extractLsb' 5 3 ≠ 0b100#3) (hr : b.extractLsb' 5 3 ≠ 0b101#3)
    (bs : List Byte) : readBack (wireRoles (b :: bs)) = .foreign ((b :: bs).map .foreign) := by
  rw [wireRoles_foreign hw hr]
  rfl

/-! Whole transactions. -/

/-- The bytes of a transaction and the release, from any monitor between transactions (R45). -/
theorem stepTimes_of_bytes {bs : List Byte} (hne : bs ≠ []) {s : State} {rest : List Offer} (hc : s.capture = [])
    (ho : s.offers = bs.map (fun b => .code (.wire b)) ++ .release :: rest) :
    stepTimes (bs.length + 1) s =
      .next { s with offers := rest, readings := s.readings ++ [readBack (wireRoles bs)] } := by
  cases bs with
  | nil => exact absurd rfl hne
  | cons b bs => exact stepTimes_transaction b bs s rest hc ho

/-- Settles O47: the reading is that of the bytes' own roles. -/
theorem transactionsAreReadApart : Obligations.TransactionsAreReadApart := by
  unfold Obligations.TransactionsAreReadApart
  intro bs hne
  exact ⟨readBack (wireRoles bs), fun s rest hc ho => stepTimes_of_bytes hne hc ho⟩

/-- Settles O46: the monitor adds the reading of the frame's bytes, and each frame's bytes read back as its request. -/
theorem monitorReadsEveryFrameBack : Obligations.MonitorReadsEveryFrameBack := by
  unfold Obligations.MonitorReadsEveryFrameBack
  intro s rest t r hc hframe ho
  have hread : txnBytes t ≠ [] ∧ readBack (wireRoles (txnBytes t)) = r := by
    obtain ⟨a, rfl, rfl⟩ | ⟨a, n, h1, hmax, rfl, rfl⟩ | ⟨a, v, rfl, rfl⟩ | ⟨a, v, rfl, rfl⟩ := hframe
    · exact ⟨List.cons_ne_nil _ _, readBack_readFrame a⟩
    · exact ⟨List.cons_ne_nil _ _, readBack_blockFrame a h1 hmax⟩
    · exact ⟨List.cons_ne_nil _ _, readBack_write a v⟩
    · exact ⟨List.cons_ne_nil _ _, readBack_write a v⟩
  obtain ⟨hne, hback⟩ := hread
  rw [← hback]
  exact stepTimes_of_bytes hne hc ho

/-- Settles O53. -/
theorem foreignFirstByteIsReported : Obligations.ForeignFirstByteIsReported := by
  unfold Obligations.ForeignFirstByteIsReported
  intro s b bs rest hc ho hw hr
  rw [← readBack_foreign hw hr bs]
  exact stepTimes_transaction b bs s rest hc ho

/-! Frames that break off (R46). -/

/-- A beginning of a list that is not the whole list is a beginning of all but its last element. -/
theorem prefix_of_concat_of_ne {α : Type} {l init : List α} {x : α} (h : l <+: init ++ [x]) (hne : l ≠ init ++ [x]) :
    l <+: init :=
  (List.prefix_concat_iff.mp h).resolve_left hne

/-- A nonempty beginning of a command and a row of one byte is the command and a shorter row. -/
theorem eq_cons_replicate_of_prefix {c x : Byte} {n : Nat} {bs : List Byte} (h : bs <+: c :: List.replicate n x)
    (hne : bs ≠ []) : ∃ k, k ≤ n ∧ bs = c :: List.replicate k x := by
  obtain rfl | ⟨tail, rfl, htail⟩ := List.prefix_cons_iff.mp h
  · exact absurd rfl hne
  · obtain ⟨hk, htail⟩ := List.prefix_replicate_iff.mp htail
    exact ⟨tail.length, hk, congrArg (c :: ·) htail⟩

section
variable {a : Addr} {bs : List Byte}

theorem readBack_readFrame_brokenOff (h : bs <+: txnBytes (readFrame a)) (hne : bs ≠ [])
    (hproper : bs ≠ txnBytes (readFrame a)) : readBack (wireRoles bs) = .brokenOff (wireRoles bs) := by
  have hinit : bs <+: readCmd a :: List.replicate 2 fillByte := prefix_of_concat_of_ne h hproper
  obtain ⟨k, hk, rfl⟩ := eq_cons_replicate_of_prefix hinit hne
  rw [wireRoles_read_fills]
  exact readBack_of_beginning (frameStatus_fills a hk)

theorem readBack_blockFrame_brokenOff {n : Nat} (h1 : 1 ≤ n) (hmax : n ≤ Config.maxBlock)
    (h : bs <+: txnBytes (blockFrame a n)) (hne : bs ≠ []) (hproper : bs ≠ txnBytes (blockFrame a n)) :
    readBack (wireRoles bs) = .brokenOff (wireRoles bs) := by
  rw [txnBytes_blockFrame a h1] at h hproper
  have hinit : bs <+: readCmd a :: List.replicate (n + 1) contByte := prefix_of_concat_of_ne h hproper
  obtain ⟨k, hk, rfl⟩ := eq_cons_replicate_of_prefix hinit hne
  rw [wireRoles_read_conts]
  exact readBack_of_beginning (frameStatus_conts a (by omega))

theorem readBack_write_brokenOff {v : Byte} (h : bs <+: [writeCmd a, v]) (hne : bs ≠ [])
    (hproper : bs ≠ [writeCmd a, v]) : readBack (wireRoles bs) = .brokenOff (wireRoles bs) := by
  have hinit : bs <+: writeCmd a :: List.replicate 0 v := prefix_of_concat_of_ne h hproper
  obtain ⟨k, hk, rfl⟩ := eq_cons_replicate_of_prefix hinit hne
  obtain rfl : k = 0 := by omega
  rw [List.replicate_zero, wireRoles_write]
  rfl

end

/-- Settles O48: a proper beginning of a frame stops before the frame's last byte, so its roles only begin a frame. -/
theorem brokenOffFramesAreReadApart : Obligations.BrokenOffFramesAreReadApart := by
  unfold Obligations.BrokenOffFramesAreReadApart
  intro s rest f bs hc hframe hprefix hne hproper ho
  have hback : readBack (wireRoles bs) = .brokenOff (wireRoles bs) := by
    obtain ⟨a, rfl⟩ | ⟨a, n, h1, hmax, rfl⟩ | ⟨a, v, rfl⟩ | ⟨a, v, rfl⟩ := hframe
    · exact readBack_readFrame_brokenOff hprefix hne hproper
    · exact readBack_blockFrame_brokenOff h1 hmax hprefix hne hproper
    · exact readBack_write_brokenOff hprefix hne hproper
    · exact readBack_write_brokenOff hprefix hne hproper
  exact ⟨wireRoles bs, wireRoles_bytes bs, hback ▸ stepTimes_of_bytes hne hc ho⟩

/-! Single steps of the monitor. -/

theorem step_release {s : State} {rest : List Offer} (ho : s.offers = .release :: rest) :
    step s = .next (s.withOffers rest).monitorRelease := by
  simp only [step, ho]

/-- A release with bytes captured reads the transaction back and empties the capture (R45). -/
theorem step_release_capture {s : State} {rest : List Offer} (ho : s.offers = .release :: rest)
    (hc : s.capture ≠ []) :
    step s = .next { s with offers := rest, capture := [], readings := s.readings ++ [readBack s.capture] } := by
  obtain ⟨h, -⟩ | ⟨-, h⟩ := monitorRelease_cases (s.withOffers rest)
  · exact absurd h hc
  · rw [step_release ho, h]
    rfl

/-- The next state when the bytes captured are a whole frame. -/
theorem step_release_whole {s : State} {rest : List Offer} {roles : List WireRole} {r : Reading}
    (ho : s.offers = .release :: rest) (hc : s.capture = roles) (hw : frameStatus roles = .whole r) :
    step s = .next { s with offers := rest, capture := [], readings := s.readings ++ [r] } := by
  have hne : s.capture ≠ [] := by
    rintro h
    rw [← hc, h] at hw
    cases hw
  rw [step_release_capture ho hne, hc, readBack_of_whole hw]

/-- Settles O49. -/
theorem releaseEndsTheTransaction : Obligations.ReleaseEndsTheTransaction := by
  unfold Obligations.ReleaseEndsTheTransaction
  intro s rest ho
  refine ⟨fun hc => ?empty, fun hc => ⟨_, step_release_capture ho hc⟩⟩
  case empty =>
    obtain ⟨-, h⟩ | ⟨hne, -⟩ := monitorRelease_cases (s.withOffers rest)
    · rw [step_release ho, h]
      rfl
    · exact absurd hc hne

/-- Settles O50. -/
theorem commandBytesOpenAFrame : Obligations.CommandBytesOpenAFrame := by
  unfold Obligations.CommandBytesOpenAFrame
  intro s a hc
  simp [exec, execCmdWrite, execCmdRead, State.monitorByte, hc]

/-- Settles O54: a wire row gives the monitor its byte. -/
theorem wireBytesTouchOnlyTheMonitor : Obligations.WireBytesTouchOnlyTheMonitor := by
  unfold Obligations.WireBytesTouchOnlyTheMonitor
  intro i s hi
  obtain ⟨b, hb, he⟩ := wire_exec i hi s
  exact ⟨b, hb, byteRole_byte _ b, he⟩

/-- A byte captured after others has the role that the first of them gives it (R86). -/
theorem monitorByte_of_capture {s : State} {r : WireRole} {roles : List WireRole} (hc : s.capture = r :: roles)
    (b : Byte) : s.monitorByte b = { s with capture := s.capture ++ [byteRole (some r) b] } := by
  simp [State.monitorByte, hc]

theorem byteRole_read_foreign (a : Addr) {x : Byte} (hcont : x ≠ contByte) (hfill : x ≠ fillByte) :
    byteRole (some (.readCommand a)) x = .foreign x :=
  (if_neg hcont).trans (if_neg hfill)

/-- A command byte equals no marker (R77). -/
theorem writeCmd_ne_markers : ∀ a : Addr, writeCmd a ≠ contByte ∧ writeCmd a ≠ fillByte := by decide

theorem readCmd_ne_markers : ∀ a : Addr, readCmd a ≠ contByte ∧ readCmd a ≠ fillByte := by decide

/-- Settles O51: the role of each byte after a read command, and the two whole read frames. -/
theorem markersPadARead : Obligations.MarkersPadARead := by
  unfold Obligations.MarkersPadARead
  intro s a b roles k rest
  refine ⟨fun hc => ?bytes, fun ho hc => step_release_whole ho hc rfl,
    fun ho hk hc => step_release_whole ho hc (frameStatus_block a hk)⟩
  case bytes =>
    have hbyte := monitorByte_of_capture hc
    obtain ⟨hwc, hwf⟩ := writeCmd_ne_markers b
    obtain ⟨hrc, hrf⟩ := readCmd_ne_markers b
    refine ⟨congrArg _ (hbyte contByte), congrArg _ (hbyte fillByte), ?_, ?_⟩
    · rw [← writeCmd_eq, ← byteRole_read_foreign a hwc hwf]
      exact congrArg _ (hbyte (writeCmd b))
    · rw [← readCmd_eq, ← byteRole_read_foreign a hrc hrf]
      exact congrArg _ (hbyte (readCmd b))

/-- Settles O52: after a write command every byte is data, whatever it equals. -/
theorem writeDataMayEqualAMarker : Obligations.WriteDataMayEqualAMarker := by
  unfold Obligations.WriteDataMayEqualAMarker
  intro s a b v roles rest
  refine ⟨fun hc => ?bytes, fun ho hc => step_release_whole ho hc rfl⟩
  case bytes =>
    have hbyte := monitorByte_of_capture hc
    refine ⟨congrArg _ (hbyte contByte), congrArg _ (hbyte fillByte), ?_, ?_⟩
    · rw [← writeCmd_eq]
      exact congrArg _ (hbyte (writeCmd b))
    · rw [← readCmd_eq]
      exact congrArg _ (hbyte (readCmd b))

end Sys2Proof.Laws
end

section
/-! The codec's bits (R101, R106) and ranges (R107): the bits a layout ignores, and that every value of the stated
ranges is the decoding of some bytes. -/

namespace Sys2Proof.Laws

open Sys2Proof.Machine

/-! Ignored bits (R101, R106). -/

/-- Changing bits where the mask `m` is set does not change a bit where it is clear. -/
theorem getLsbD_xor_masked {n : Nat} (b c m : BitVec n) {i : Nat} (h : m.getLsbD i = false) :
    (b ^^^ (c &&& m)).getLsbD i = b.getLsbD i := by
  simp [h]

/-- Changing bits where the mask `m` is set does not change a field that shares no bit with it. -/
theorem xor_masked_and {n : Nat} (b c : BitVec n) {m k : BitVec n} (h : m &&& k = 0#n) :
    (b ^^^ (c &&& m)) &&& k = b &&& k := by
  have hdrop : (c &&& m) &&& k = 0#n := by rw [BitVec.and_assoc, h, BitVec.and_zero]
  have hsplit : (b ^^^ (c &&& m)) &&& k = (b &&& k) ^^^ ((c &&& m) &&& k) := by
    ext i hi
    simp [Bool.and_xor_distrib_right]
  rw [hsplit, hdrop, BitVec.xor_zero]

/-- Settles O20: each field's mask shares no bit with those flipped, and no field takes `b1`. -/
theorem absoluteIgnoredBits : Obligations.AbsoluteIgnoredBits := by
  unfold Obligations.AbsoluteIgnoredBits
  intro b0 b1 b2 b3 b4 b5 c0 c1 c4 c5
  have hx : absX b2 (b4 ^^^ (c4 &&& 0x80#8)) = absX b2 b4 := by
    rw [absX, xor_masked_and b4 c4 (by decide), absX]
  have hy : absY b3 (b4 ^^^ (c4 &&& 0x80#8)) = absY b3 b4 := by
    rw [absY, xor_masked_and b4 c4 (by decide), absY]
  have hz : absZ (b5 ^^^ (c5 &&& 0xC0#8)) = absZ b5 := xor_masked_and b5 c5 (by decide)
  have hbuttons : absButtons (b0 ^^^ (c0 &&& 0xC0#8)) = absButtons b0 := xor_masked_and b0 c0 (by decide)
  rw [decodeAbs, hx, hy, hz, hbuttons, decodeAbs]

/-- With one sign bit, two axes that are equal come from one byte (R102, R103). -/
theorem relAxis_injective (sign : Bool) {b c : Byte} (h : relAxis sign b = relAxis sign c) : b = c := by
  have hint := congrArg BitVec.toInt h
  rw [relAxis_toInt, relAxis_toInt] at hint
  apply BitVec.eq_of_toNat_eq
  cases sign with
  | false => exact Int.ofNat.inj hint
  | true =>
    simp only [if_true] at hint
    omega

/-- Settles O22: `0xC8` is clear at the five bits of `b0` that are read, and each other byte is a field's own. -/
theorem relativeIgnoredBits : Obligations.RelativeIgnoredBits := by
  unfold Obligations.RelativeIgnoredBits
  refine ⟨fun b0 b1 b2 b3 c => ?ignored, fun b0 b1 b2 b3 c1 c2 c3 h => ?used⟩
  case ignored =>
    have hbit {i : Nat} (hi : (0xC8#8).getLsbD i = false) : (b0 ^^^ (c &&& 0xC8#8)).getLsbD i = b0.getLsbD i :=
      getLsbD_xor_masked b0 c _ hi
    rw [decodeRel, hbit (i := 4) rfl, hbit (i := 5) rfl, hbit (i := 0) rfl, hbit (i := 1) rfl, hbit (i := 2) rfl,
      decodeRel]
  case used =>
    exact ⟨relAxis_injective _ (congrArg RelSample.x h), relAxis_injective _ (congrArg RelSample.y h),
      congrArg RelSample.wheel h⟩

/-! Ranges of the absolute layout (R97 to R100, R107). -/

/-- A byte `b4` with given bits 6:4 and 3:0. -/
theorem extract_b4 : ∀ (hi : BitVec 3) (lo : BitVec 4),
    (0#1 ++ hi ++ lo : Byte).extractLsb' 0 4 = lo ∧ (0#1 ++ hi ++ lo : Byte).extractLsb' 4 3 = hi := by decide

/-- A value of 12 bits is the `x` of its low byte and of a `b4` that holds its other bits. -/
theorem absX_of_le {x : Word} (h : x.toNat ≤ 4095) {b4 : Byte} (hb4 : b4.extractLsb' 0 4 = x.extractLsb' 8 4) :
    absX (x.extractLsb' 0 8) b4 = x := by
  apply BitVec.eq_of_toNat_eq
  rw [absX_toNat, hb4, BitVec.extractLsb'_toNat, BitVec.extractLsb'_toNat, Nat.shiftRight_eq_div_pow]
  omega

/-- A value of 11 bits is the `y` of its low byte and of a `b4` that holds its other bits. -/
theorem absY_of_le {y : Word} (h : y.toNat ≤ 2047) {b4 : Byte} (hb4 : b4.extractLsb' 4 3 = y.extractLsb' 8 3) :
    absY (y.extractLsb' 0 8) b4 = y := by
  apply BitVec.eq_of_toNat_eq
  rw [absY_toNat, hb4, BitVec.extractLsb'_toNat, BitVec.extractLsb'_toNat, Nat.shiftRight_eq_div_pow]
  omega

/-- A value of six bits is its own `z` or `buttons`. -/
theorem and_sixBits_of_le {b : Byte} (h : b.toNat ≤ 63) : b &&& 0x3F#8 = b := by
  apply BitVec.eq_of_toNat_eq
  rw [BitVec.toNat_and]
  exact (Nat.and_two_pow_sub_one_eq_mod b.toNat 6).trans (Nat.mod_eq_of_lt (by omega))

theorem absX_le (b2 b4 : Byte) : (absX b2 b4).toNat ≤ 4095 := by
  rw [absX_toNat]
  omega

theorem absY_le (b3 b4 : Byte) : (absY b3 b4).toNat ≤ 2047 := by
  rw [absY_toNat]
  omega

/-! Ranges of the relative layout (R102 to R105, R107). -/

theorem relAxis_range (sign : Bool) (b : Byte) : -256 ≤ (relAxis sign b).toInt ∧ (relAxis sign b).toInt ≤ 255 := by
  rw [relAxis_toInt]
  split <;> omega

/-- A value of nine bits in two's complement is the axis of its sign and its low byte. -/
theorem relAxis_of_range {x : Word} (h0 : -256 ≤ x.toInt) (h1 : x.toInt ≤ 255) :
    relAxis x.msb (x.setWidth 8) = x := by
  apply BitVec.eq_of_toInt_eq
  rw [relAxis_toInt, BitVec.toNat_setWidth]
  rw [BitVec.toInt_eq_msb_cond] at h0 h1 ⊢
  cases hsign : x.msb with
  | false =>
    simp only [hsign, Bool.false_eq_true, if_false] at h0 h1 ⊢
    omega
  | true =>
    simp only [hsign, if_true] at h0 h1 ⊢
    omega

/-- The byte `b0` of a relative sample, from its two signs and its three buttons. -/
def relFlags (xSign ySign p q r : Bool) : Byte :=
  0#2 ++ BitVec.ofBool ySign ++ BitVec.ofBool xSign ++ 0#1 ++ BitVec.ofBool r ++ BitVec.ofBool q ++ BitVec.ofBool p

theorem relFlags_bits : ∀ xSign ySign p q r : Bool,
    (relFlags xSign ySign p q r).getLsbD 4 = xSign ∧ (relFlags xSign ySign p q r).getLsbD 5 = ySign ∧
      (relFlags xSign ySign p q r).getLsbD 0 = p ∧ (relFlags xSign ySign p q r).getLsbD 1 = q ∧
      (relFlags xSign ySign p q r).getLsbD 2 = r := by decide

/-- Settles O23: the bytes that give a record are built from its fields; the bounds are those of the fields' formulas. -/
theorem codecRangesAreExact : Obligations.CodecRangesAreExact := by
  unfold Obligations.CodecRangesAreExact
  refine ⟨fun x y z buttons => ⟨?absProduced, ?absBounded⟩, fun x y wheel p q r => ⟨?relProduced, ?relBounded⟩⟩
  case absProduced =>
    rintro ⟨hx, hy, hz, hbuttons⟩
    obtain ⟨hlo, hhi⟩ := extract_b4 (y.extractLsb' 8 3) (x.extractLsb' 8 4)
    refine ⟨buttons, 0#8, x.extractLsb' 0 8, y.extractLsb' 0 8, 0#1 ++ y.extractLsb' 8 3 ++ x.extractLsb' 8 4, z, ?_⟩
    rw [decodeAbs, absX_of_le hx hlo, absY_of_le hy hhi, absZ, and_sixBits_of_le hz, absButtons,
      and_sixBits_of_le hbuttons]
  case absBounded =>
    rintro ⟨b0, b1, b2, b3, b4, b5, h⟩
    cases h
    exact ⟨absX_le b2 b4, absY_le b3 b4, toNat_and_sixBits_le b5, toNat_and_sixBits_le b0⟩
  case relProduced =>
    rintro ⟨hx0, hx1, hy0, hy1⟩
    obtain ⟨hxs, hys, hp, hq, hr⟩ := relFlags_bits x.msb y.msb p q r
    refine ⟨relFlags x.msb y.msb p q r, x.setWidth 8, y.setWidth 8, wheel, ?_⟩
    rw [decodeRel, hxs, hys, hp, hq, hr, relAxis_of_range hx0 hx1, relAxis_of_range hy0 hy1]
  case relBounded =>
    rintro ⟨b0, b1, b2, b3, h⟩
    cases h
    obtain ⟨hx0, hx1⟩ := relAxis_range (b0.getLsbD 4) b1
    obtain ⟨hy0, hy1⟩ := relAxis_range (b0.getLsbD 5) b2
    exact ⟨hx0, hx1, hy0, hy1⟩

end Sys2Proof.Laws
end

section
/-! The requests against each other (R83, R93): a SAMPLE is its read, its decode and its status clear; and RD1 is not a
block read of one byte. -/

namespace Sys2Proof.Laws

open Sys2Proof.Machine Sys2Proof.Safety

/-! The read, the decode and the clear of R83, each run where the bus steps it needs succeed. -/

/-- Fewer bus steps than the transport completes are completed (R114). -/
theorem completes_of_le {s : State} {k n : Nat} (h : completes s n) (hk : k ≤ n) : completes s k :=
  fun life hlife => hk.trans (h life hlife)

section
variable {s : State} {x0 x1 : List Byte}

/-- The state an RDN leaves that has received `data` (R90). -/
def afterRdn (a : Addr) (n : Byte) (data : List Byte) (s : State) : State :=
  spendLife 2 (drawn 2 (sent [blockFrame a n.toNat] ((s.setRxbuf data).returnOk (.bytes data))))

theorem exec_rdn_done {a : Addr} {n : Byte} {data : List Byte} (ha : listed a = true) (hn : goodLength n = true)
    (hc : completes s 2) (h0 : answerAt s 0 = .done x0) (h1 : answerAt s 1 = .done x1)
    (hdata : Received (s.draws + 1) n.toNat x1 data) : exec (.rdn a n) s = .next (afterRdn a n data s) := by
  rw [exec_rdn_of_listed ha hn, ← flatten_received_block (length_blockPadding n.toNat ((goodLength_iff n).mp hn).1) hdata]
  exact finish_busTxn_ok (runSteps_two _ _ h0 h1) hc rfl rfl rfl

/-- The state a WRD leaves that succeeds (R92). -/
def afterWrd (a : Addr) (v : Byte) (s : State) : State :=
  spendLife 2 (drawn 2 (sent [delayedFrame a v] (s.returnOk .unit)))

theorem exec_wrd_done {a : Addr} {v : Byte} (ha : listed a = true) (hc : completes s 2)
    (h0 : answerAt s 0 = .done x0) (h1 : answerAt s 1 = .done x1) : exec (.wrd a v) s = .next (afterWrd a v s) := by
  rw [exec_wrd_of_listed v ha]
  exact finish_busTxn_ok (runSteps_two _ _ h0 h1) hc rfl rfl rfl

end

/-- The bus steps an RDN used up are gone from those the transport completes. -/
theorem completes_afterRdn {s : State} {k : Nat} (h : completes s (2 + k)) (a : Addr) (n : Byte) (data : List Byte) :
    completes (afterRdn a n data s) k := by
  intro life hlife
  obtain ⟨before, hbefore, rfl⟩ := Option.map_eq_some_iff.mp hlife
  have hmore := h before hbefore
  omega

theorem answerAt_afterRdn (a : Addr) (n : Byte) (data : List Byte) (s : State) (j : Nat) :
    answerAt (afterRdn a n data s) j = answerAt s (2 + j) :=
  answerAt_drawn s 2 j

/-- What the read and the clear leave is what a SAMPLE leaves, but for the outcomes posted. -/
theorem sample_state_eq (s : State) (n : Byte) (data : List Byte) (v : Value) :
    spendLife 4 (drawn 4 (sent [blockFrame Reg.pkt0 n.toNat, clearFrame] ((s.setRxbuf data).returnOk v))) =
      { afterWrd Reg.status 0x00#8 ((afterRdn Reg.pkt0 n data s).returnOk v) with
        results := s.results ++ [.ok v] } := by
  simp only [afterWrd, afterRdn, spendLife, drawn, sent, clearFrame, State.setRxbuf, State.returnOk, State.post,
    List.append_assoc, List.cons_append, List.nil_append, List.drop_drop, Nat.add_assoc, Option.map_map,
    Function.comp_def, Nat.sub_sub]

/-- R83 in either mode: `decode` and `sample` are the mode's two requests, and `f` is the sample they make of the bytes
of a block of `n`. -/
theorem sample_is_read_decode_clear {s : State} {n : Byte} {decode sample : Instr} {f : (Nat → Byte) → Value}
    (hn : goodLength n = true) (hc : completes s 4) (hdone : ∀ k, k < 4 → ∃ bs, answerAt s k = .done bs)
    (hsample : exec sample s = finish s (s.sample n.toNat f))
    (hdecode : ∀ (u : State) (data : List Byte), u.mode = s.mode → u.rxbuf = data → data.length = n.toNat →
      exec decode u = .next (u.returnOk (f (s.inByte data)))) :
    ∃ t1 t2 t3 t v, exec (.rdn 0x12#5 n) s = .next t1 ∧ exec decode t1 = .next t2 ∧
      exec (.wrd 0x02#5 0x00#8) t2 = .next t3 ∧ exec sample s = .next t ∧ t2.results = t1.results ++ [.ok v] ∧
      t.results = s.results ++ [.ok v] ∧ t = { t3 with results := t.results } := by
  obtain ⟨x0, h0⟩ := hdone 0 (by decide)
  obtain ⟨x1, h1⟩ := hdone 1 (by decide)
  obtain ⟨x2, h2⟩ := hdone 2 (by decide)
  obtain ⟨x3, h3⟩ := hdone 3 (by decide)
  have hdata : Received (s.draws + 1) n.toNat x1 (receiveBytes (s.draws + 1) 0 n.toNat x1) :=
    (received_iff _ _ _ _).mpr rfl
  set data := receiveBytes (s.draws + 1) 0 n.toNat x1
  set t1 := afterRdn Reg.pkt0 n data s
  set v := f (s.inByte data)
  have hread : exec (.rdn Reg.pkt0 n) s = .next t1 :=
    exec_rdn_done rfl hn (completes_of_le hc (by decide)) h0 h1 hdata
  have hclear : exec (.wrd Reg.status 0x00#8) (t1.returnOk v) = .next (afterWrd Reg.status 0x00#8 (t1.returnOk v)) :=
    exec_wrd_done rfl (completes_afterRdn hc Reg.pkt0 n data)
      ((answerAt_afterRdn Reg.pkt0 n data s 0).trans h2) ((answerAt_afterRdn Reg.pkt0 n data s 1).trans h3)
  have hone := finish_sample_ok (f := f) ((goodLength_iff n).mp hn).1 hc h0 h1 h2 h3 hdata
  rw [sample_state_eq] at hone
  exact ⟨t1, t1.returnOk v, _, _, v, hread, hdecode t1 data rfl rfl hdata.1, hclear, hsample.trans hone, rfl, rfl, rfl⟩

/-- Settles O28: a block of six, or of four, decodes as SAMPLE decodes the bytes it received. -/
theorem sampleIsReadDecodeClear : Obligations.SampleIsReadDecodeClear := by
  unfold Obligations.SampleIsReadDecodeClear
  intro s hc hdone
  refine ⟨fun hm => ?absolute, fun hm => ?relative⟩
  case absolute =>
    refine sample_is_read_decode_clear rfl hc hdone (exec_sampleAbs_of_mode hm) fun u data hmode hdata hlen => ?_
    match data, hlen with
    | [b0, b1, b2, b3, b4, b5], _ =>
      rw [exec_decabs_of_mode (hmode.trans hm), decodeBufferAbs_of_bytes hdata]
      exact finish_returnOk u _
  case relative =>
    refine sample_is_read_decode_clear rfl hc hdone (exec_sampleRel_of_mode hm) fun u data hmode hdata hlen => ?_
    match data, hlen with
    | [b0, b1, b2, b3], _ =>
      rw [exec_decrel_of_mode (hmode.trans hm), decodeBufferRel_of_bytes hdata]
      exact finish_returnOk u _

/-! RD1 and a block read of one byte (R93). -/

/-- A read of one transaction that succeeds leaves the bytes it writes and its frame on the wire. -/
theorem rxlen_and_wire_of_exec_ok {i : Instr} {s t : State} {v : Value} {n : Nat} (h : exec i s = .next t)
    (hpost : t.results = s.results ++ [.ok v]) (hb : bufferWritten i = some n) :
    t.rxlen = n ∧ t.wire = s.wire ++ transactions i := by
  obtain ⟨u, life, rfl, hok⟩ := endsOk_of_exec_ok h hpost
  obtain ⟨buf, rfl, hlen, -⟩ := hok.state
  exact ⟨hlen n hb, rfl⟩

/-- Settles O18, from the frames of the two requests. -/
theorem rd1AndRdn1AreNotInterchangeable : Obligations.Rd1AndRdn1AreNotInterchangeable := by
  unfold Obligations.Rd1AndRdn1AreNotInterchangeable
  intro s t u a v w hrd1 hv hrdn hw
  obtain ⟨htlen, htwire⟩ := rxlen_and_wire_of_exec_ok hrd1 hv rfl
  obtain ⟨hulen, huwire⟩ := rxlen_and_wire_of_exec_ok hrdn hw rfl
  exact ⟨htlen, hulen, readFrame a, blockFrame a 1, htwire, huwire, rfl, rfl, rfl, rfl⟩

end Sys2Proof.Laws
end

section
/-! What persists (R15, R23, R31): a request adds to what was sent and posted before and reads none of it, nor REFUSED,
nor the monitor, nor the offers. A request that begins in `s` with the past `p` is the request that begins in `s`, with
`p` put before what it leaves. -/

namespace Sys2Proof.Laws

open Sys2Proof.Machine Sys2Proof.Safety

/-! A past, put before a state. -/

/-- `s` after the past `p`: its transactions and outcomes come after those of `p`, REFUSED stays set if it was, and the
offers and the monitor's fields are those of `p`. -/
def behind (p s : State) : State :=
  { s with
    wire := p.wire ++ s.wire
    results := p.results ++ s.results
    refused := p.refused || s.refused
    offers := p.offers
    capture := p.capture
    readings := p.readings }

/-- `s` as if nothing had been sent, posted or refused before. -/
def withoutPast (s : State) : State := { s with wire := [], results := [], refused := false }

/-- Any state is its block and transport after its own past. -/
theorem behind_withoutPast (s : State) : behind s (withoutPast s) = s := by
  simp [behind, withoutPast]

/-- The outcome of a step, its next state changed by `g`. -/
def mapNext (g : State → State) : Host.Outcome State Fault Refusal → Host.Outcome State Fault Refusal
  | .next t => .next (g t)
  | .fault f => .fault f
  | .refused r => .refused r

section
variable (p s : State)

theorem behind_returnOk (v : Value) : (behind p s).returnOk v = behind p (s.returnOk v) := by
  simp [behind, State.returnOk, State.post]

theorem behind_raiseError (e : BusError) : (behind p s).raiseError e = behind p (s.raiseError e) := by
  simp [behind, State.raiseError, State.post]

theorem behind_refuse (r : Reason) : (behind p s).refuse r = behind p (s.refuse r) := by
  simp [behind, State.refuse, State.post]

theorem behind_afterTxn (t : Txn) : (behind p s).afterTxn t = behind p (s.afterTxn t) := by
  simp [behind, State.afterTxn]

theorem behind_setRxbuf (bs : List Byte) : (behind p s).setRxbuf bs = behind p (s.setRxbuf bs) := rfl

/-- A successful end does not read the past. -/
theorem behind_commit (bs : List Byte) (v : Value) :
    ((behind p s).setRxbuf bs).returnOk v = behind p ((s.setRxbuf bs).returnOk v) := by
  rw [behind_setRxbuf, behind_returnOk]

/-- A transaction does not read the past, if what follows it does not. -/
theorem busTxn_behind (t : Txn) {k k' : List (List Byte) → State → State}
    (hk : ∀ ins u, k ins (behind p u) = behind p (k' ins u)) :
    (behind p s).busTxn t k = behind p (s.busTxn t k') := by
  have hreply : (behind p s).busReply t = s.busReply t := rfl
  simp only [State.busTxn, hreply, behind_afterTxn]
  cases s.busReply t with
  | ok ins => exact hk ins (s.afterTxn t)
  | err e => exact behind_raiseError p (s.afterTxn t) e

theorem sample_behind (n : Nat) (f : (Nat → Byte) → Value) : (behind p s).sample n f = behind p (s.sample n f) :=
  busTxn_behind p s _ fun _ u => busTxn_behind p u _ fun _ w => behind_commit p w _ _

theorem decodeBufferAbs_behind : (behind p s).decodeBufferAbs = behind p s.decodeBufferAbs := by
  obtain ⟨b0, b1, b2, b3, b4, b5, bs, hb, he⟩ | ⟨hlen, he⟩ := decodeBufferAbs_cases s
  · rw [he, ← behind_returnOk]
    exact decodeBufferAbs_of_bytes hb
  · rw [he, ← behind_refuse]
    exact decodeBufferAbs_of_short hlen

theorem decodeBufferRel_behind : (behind p s).decodeBufferRel = behind p s.decodeBufferRel := by
  obtain ⟨b0, b1, b2, b3, bs, hb, he⟩ | ⟨hlen, he⟩ := decodeBufferRel_cases s
  · rw [he, ← behind_returnOk]
    exact decodeBufferRel_of_bytes hb
  · rw [he, ← behind_refuse]
    exact decodeBufferRel_of_short hlen

/-- How a request stops does not depend on the past (R114). -/
theorem finish_behind (t : State) : finish (behind p s) (behind p t) = mapNext (behind p) (finish s t) := by
  have hlife : (behind p s).busLife = s.busLife := rfl
  have hdraws : (behind p t).draws - (behind p s).draws = t.draws - s.draws := rfl
  simp only [finish, hlife, hdraws]
  cases s.busLife with
  | none => rfl
  | some life =>
    by_cases h : t.draws - s.draws ≤ life
    · simp only [if_pos h]; rfl
    · simp only [if_neg h]; rfl

/-- A request with an operand check does not read the past, if it does not once it runs. -/
theorem finish_checked_behind (i : Instr) {run : State → State} (hrun : run (behind p s) = behind p (run s)) :
    finish (behind p s) ((behind p s).checked i run) = mapNext (behind p) (finish s (s.checked i run)) := by
  have hchecked : (behind p s).checked i run = behind p (s.checked i run) := by
    unfold State.checked
    cases i.operandFault with
    | none => exact hrun
    | some r => exact behind_refuse p s r
  rw [hchecked, finish_behind]

/-- A request with a mode check does not read the past, if it does not once it runs. -/
theorem finish_inMode_behind (m : Mode) {run : State → State} (hrun : run (behind p s) = behind p (run s)) :
    finish (behind p s) ((behind p s).inMode m run) = mapNext (behind p) (finish s (s.inMode m run)) := by
  have hmode : (behind p s).inMode m run = behind p (s.inMode m run) := by
    have hsame : (behind p s).mode = s.mode := rfl
    unfold State.inMode
    rw [hsame]
    by_cases h : s.mode = m
    · rw [if_pos h, if_pos h, hrun]
    · rw [if_neg h, if_neg h, behind_refuse]
  rw [hmode, finish_behind]

/-- R15, R31: no request reads the past. -/
theorem exec_behind {i : Instr} (hi : i.isRequest = true) : exec i (behind p s) = mapNext (behind p) (exec i s) := by
  cases i with
  | rd1 a => exact finish_checked_behind p s _ (busTxn_behind p s _ fun _ u => behind_commit p u _ _)
  | rdn a n => exact finish_checked_behind p s _ (busTxn_behind p s _ fun _ u => behind_commit p u _ _)
  | wr a v => exact finish_checked_behind p s _ (busTxn_behind p s _ fun _ u => behind_returnOk p u _)
  | wrd a v => exact finish_checked_behind p s _ (busTxn_behind p s _ fun _ u => behind_returnOk p u _)
  | decabs => exact finish_inMode_behind p s _ (decodeBufferAbs_behind p s)
  | decrel => exact finish_inMode_behind p s _ (decodeBufferRel_behind p s)
  | sampleAbs => exact finish_inMode_behind p s _ (sample_behind p s 6 _)
  | sampleRel => exact finish_inMode_behind p s _ (sample_behind p s 4 _)
  | cmdWrite a => cases hi
  | cmdRead a => cases hi
  | cont => cases hi
  | fill => cases hi

end

/-- A request does, after its past, what it does from its block and transport alone. -/
theorem exec_withoutPast {i : Instr} {s t : State} (hi : i.isRequest = true) (h : exec i s = .next t) :
    ∃ u, exec i (withoutPast s) = .next u ∧ t = behind s u := by
  have hmap := exec_behind s (withoutPast s) hi
  rw [behind_withoutPast, h] at hmap
  cases he : exec i (withoutPast s) with
  | next u => rw [he] at hmap; cases hmap; exact ⟨u, rfl, rfl⟩
  | fault f => rw [he] at hmap; cases hmap
  | refused r => rw [he] at hmap; cases hmap

/-- The same request after another past `p`. -/
theorem exec_of_withoutPast {i : Instr} {s u p : State} (hi : i.isRequest = true)
    (h : exec i (withoutPast s) = .next u) : exec i (behind p (withoutPast s)) = .next (behind p u) := by
  rw [exec_behind p _ hi, h]
  rfl

/-- Settles O42: the transactions and the outcome are those of the request without a past, which any past is put
before. -/
theorem nothingElsePersists : Obligations.NothingElsePersists := by
  unfold Obligations.NothingElsePersists
  intro i s t hi h
  obtain ⟨u, hu, rfl⟩ := exec_withoutPast hi h
  obtain ⟨r, hr⟩ := exec_posts_one hi hu
  have hone : u.results = [r] := hr
  refine ⟨u.wire, r, rfl, congrArg (s.results ++ ·) hone, fun w rs c m os => ?_⟩
  have hother := exec_of_withoutPast
    (p := { s with wire := w, results := rs, capture := c, readings := m, offers := os }) hi hu
  simpa [behind, withoutPast, hone] using hother

/-- What an instruction posts, sends and leaves in the receive buffer is the same whatever REFUSED was (R23). -/
theorem exec_with_refused {i : Instr} {s t : State} (b : Bool) (h : exec i s = .next t) :
    ∃ t', exec i { s with refused := b } = .next t' ∧ t'.results = t.results ∧ t'.wire = t.wire ∧
      t'.rxbuf = t.rxbuf := by
  cases hi : i.isRequest with
  | false =>
    obtain ⟨x, -, he⟩ := wire_exec i hi s
    obtain ⟨y, -, he'⟩ := wire_exec i hi { s with refused := b }
    rw [he] at h
    cases h
    exact ⟨_, he', rfl, rfl, rfl⟩
  | true =>
    obtain ⟨u, hu, rfl⟩ := exec_withoutPast hi h
    have hother := exec_of_withoutPast (p := { s with refused := b }) hi hu
    have hpast : behind { s with refused := b } (withoutPast s) = { s with refused := b } :=
      behind_withoutPast { s with refused := b }
    rw [hpast] at hother
    exact ⟨_, hother, rfl, rfl, rfl⟩

/-- A step that changes REFUSED takes a construction, which clears it, or posts a refusal, which sets it. -/
theorem step_refused_cases {s t : State} (h : step s = .next t) :
    t.refused = s.refused ∨ (t.refused = false ∧ ∃ m rest, s.offers = .construct m :: rest) ∨
      (t.refused = true ∧ ∃ r, t.results = s.results ++ [.refused r]) := by
  cases step_next h with
  | idle ho => exact .inl rfl
  | constructed m rest ho => exact .inr (.inl ⟨rfl, m, rest, ho⟩)
  | monitored b c rest ho => exact .inl rfl
  | released rest ho => exact .inl (State.monitorRelease_refused _)
  | rejected w rest r ho => exact .inr (.inr ⟨rfl, r, rfl⟩)
  | ran w rest i t ho hi hexec hdid =>
    obtain ⟨r, -, rfl⟩ | hkeep := exec_refused_cases hexec
    · exact .inr (.inr ⟨rfl, r, rfl⟩)
    · exact .inl hkeep

/-- Settles O30. -/
theorem refusedIsStickyAndUnread : Obligations.RefusedIsStickyAndUnread := by
  unfold Obligations.RefusedIsStickyAndUnread
  refine ⟨fun s t h => ⟨fun r hpost => ?posted, fun hs ht => ?set, fun hs ht => ?cleared⟩,
    fun i s t b h => exec_with_refused b h⟩
  case posted => exact congrArg State.refused (refusalHasNoOtherEffect s t r h hpost)
  case set =>
    obtain hkeep | ⟨hclear, -⟩ | ⟨-, hpost⟩ := step_refused_cases h
    · simp [hkeep, hs] at ht
    · simp [hclear] at ht
    · exact hpost
  case cleared =>
    obtain hkeep | ⟨-, hconstruct⟩ | ⟨hset, -⟩ := step_refused_cases h
    · simp [hkeep, hs] at ht
    · exact hconstruct
    · simp [hset] at ht

end Sys2Proof.Laws
end

section
/-! The step's offers (R12, R26, R34, R129 to R131): a code that decodes, a construction, and none. -/

namespace Sys2Proof.Laws

open Sys2Proof.Machine

/-- Settles O7. -/
theorem stepRunsTheDecodedInstruction : Obligations.StepRunsTheDecodedInstruction := by
  unfold Obligations.StepRunsTheDecodedInstruction
  intro s c rest i ho hd
  simp only [step, ho, hd]
  rfl

/-- Settles O8. -/
theorem idleStepHoldsTheState : Obligations.IdleStepHoldsTheState := by
  unfold Obligations.IdleStepHoldsTheState
  intro s ho
  simp only [step, ho]

/-- Settles O9. -/
theorem constructionSetsTheResetValues : Obligations.ConstructionSetsTheResetValues := by
  unfold Obligations.ConstructionSetsTheResetValues
  intro s m rest ho
  simp only [step, ho]
  rfl

end Sys2Proof.Laws
end

section
/-! The assembler (R82 to R84): every line it accepts is a well-formed request, so no refused word is assembled. -/

namespace Sys2Proof.Laws

open Sys2Proof.Machine

/-! Operands. -/

/-- A key's value in an association list is one of the list's. -/
theorem mem_of_lookup {α β : Type} [BEq α] [LawfulBEq α] {l : List (α × β)} {k : α} {v : β}
    (h : l.lookup k = some v) : (k, v) ∈ l := by
  obtain ⟨before, after, rfl, -⟩ := List.lookup_eq_some_iff.mp h
  exact List.mem_append_right _ List.mem_cons_self

theorem listed_of_mem_registerNames : ∀ e ∈ registerNames, listed e.2 = true := by decide

/-- An address operand is in ADDR_SET (R82). -/
theorem listed_of_parseAddr {t : List Char} {a : Addr} (h : parseAddr t = .ok a) : listed a = true := by
  unfold parseAddr at h
  split at h
  · next b hb =>
    cases h
    exact listed_of_mem_registerNames _ (mem_of_lookup hb)
  · split at h
    · cases h
    · split at h
      · next hn => cases h; exact hn.2
      · cases h

/-- A count operand is from 1 to `MAX_BLOCK` (R82). -/
theorem goodLength_of_parseCount {t : List Char} {n : Byte} (h : parseCount t = .ok n) : goodLength n = true := by
  unfold parseCount at h
  split at h
  · cases h
  · next m hm =>
    split at h
    · next hrange =>
      cases h
      have hmax : Config.maxBlock = 32 := rfl
      rw [goodLength_iff, BitVec.toNat_ofNat, Nat.mod_eq_of_lt (by omega)]
      exact hrange
    · cases h

/-! Lines. -/

/-- What is assembled from one line: a request whose operands the block admits. -/
def Assembled (i : Instr) : Prop := i.isRequest = true ∧ i.WellFormed

/-- A shape without operands stands for such a request. -/
def plainAssembled : Shape → Bool
  | .plain i => i.isRequest && decide i.WellFormed
  | _ => true

theorem plainAssembled_of_mem_mnemonics : ∀ e ∈ mnemonics, plainAssembled e.2 = true := by decide

/-- The mnemonics and pseudo-instructions without operands (R82, R83). -/
theorem assembled_of_mem_mnemonics {m : List Char} {i : Instr} (h : (m, .plain i) ∈ mnemonics) : Assembled i := by
  have hplain : (i.isRequest && decide i.WellFormed) = true := plainAssembled_of_mem_mnemonics _ h
  simpa [Assembled] using hplain

theorem map_eq_ok {ε α β : Type} {f : α → β} {x : Except ε α} {y : β} (h : x.map f = .ok y) :
    ∃ a, x = .ok a ∧ y = f a := by
  cases x with
  | error e => cases h
  | ok a => cases h; exact ⟨a, rfl, rfl⟩

theorem bind_eq_ok {ε α β : Type} {f : α → Except ε β} {x : Except ε α} {y : β} (h : x.bind f = .ok y) :
    ∃ a, x = .ok a ∧ f a = .ok y := by
  cases x with
  | error e => cases h
  | ok a => exact ⟨a, rfl, h⟩

/-- A mnemonic with operands of its shape is a well-formed request. -/
theorem assembled_of_parseOperands {m : List Char} {shape : Shape} {args : List (List Char)} {i : Instr}
    (hm : (m, shape) ∈ mnemonics) (h : parseOperands shape args = .ok i) : Assembled i := by
  unfold parseOperands at h
  split at h
  · obtain ⟨a, ha, rfl⟩ := map_eq_ok h
    exact ⟨rfl, (wellFormed_rd1_iff a).mpr (listed_of_parseAddr ha)⟩
  · obtain ⟨a, ha, h⟩ := bind_eq_ok h
    obtain ⟨n, hn, rfl⟩ := map_eq_ok h
    exact ⟨rfl, (wellFormed_rdn_iff a n).mpr ⟨listed_of_parseAddr ha, goodLength_of_parseCount hn⟩⟩
  · next delayed x y =>
    obtain ⟨a, ha, h⟩ := bind_eq_ok h
    obtain ⟨v, -, rfl⟩ := map_eq_ok h
    cases delayed with
    | true => exact ⟨rfl, (wellFormed_wrd_iff a v).mpr (listed_of_parseAddr ha)⟩
    | false => exact ⟨rfl, (wellFormed_wr_iff a v).mpr (listed_of_parseAddr ha)⟩
  · cases h
    exact assembled_of_mem_mnemonics hm
  · cases h

theorem assembled_of_parseLine {line : List Char} {i : Instr} (h : parseLine line = .ok (some i)) : Assembled i := by
  unfold parseLine at h
  simp only at h
  split at h
  · cases h
  · split at h
    · cases h
    · next shape hshape =>
      obtain ⟨j, hj, hij⟩ := map_eq_ok h
      cases hij
      exact assembled_of_parseOperands (mem_of_lookup hshape) hj

/-! Programs. -/

/-- Every code of an accepted program is the code of a line's instruction. -/
theorem assembled_of_assembleFrom {k : Nat} {lines : List (List Char)} {codes : List Code}
    (h : assembleFrom k lines = .ok codes) : ∀ c ∈ codes, ∃ i, c = encode i ∧ Assembled i := by
  induction lines generalizing k codes with
  | nil => cases h; simp
  | cons line lines ih =>
    unfold assembleFrom at h
    split at h
    · cases h
    · exact ih h
    · next i hi =>
      obtain ⟨later, hlater, rfl⟩ := map_eq_ok h
      intro c hc
      obtain rfl | hc := List.mem_cons.mp hc
      · exact ⟨i, rfl, assembled_of_parseLine hi⟩
      · exact ih hlater c hc

/-- A request's code is a request word. -/
theorem encode_request {i : Instr} (hi : i.isRequest = true) : ∃ w, encode i = .request w := by
  cases i with
  | cmdWrite a => cases hi
  | cmdRead a => cases hi
  | cont => cases hi
  | fill => cases hi
  | rd1 a => exact ⟨_, rfl⟩
  | rdn a n => exact ⟨_, rfl⟩
  | wr a v => exact ⟨_, rfl⟩
  | wrd a v => exact ⟨_, rfl⟩
  | decabs => exact ⟨_, rfl⟩
  | decrel => exact ⟨_, rfl⟩
  | sampleAbs => exact ⟨_, rfl⟩
  | sampleRel => exact ⟨_, rfl⟩

/-- Settles O55: a line's instruction is well formed, and its code decodes to it again. -/
theorem assembledWordsAreNeverRefused : Obligations.AssembledWordsAreNeverRefused := by
  unfold Obligations.AssembledWordsAreNeverRefused
  intro lines codes h c hc
  obtain ⟨i, rfl, hi, wf⟩ := assembled_of_assembleFrom h c hc
  obtain ⟨w, hw⟩ := encode_request hi
  have hdec := decodeOfEncodeIsTheInstruction i wf
  rw [hw] at hdec ⊢
  exact ⟨w, i, rfl, decodeRequest_of_decode hdec, wf⟩

/-- Settles O56 by assembling the two programs. -/
theorem pseudoInstructionWords : Obligations.PseudoInstructionWords := by
  unfold Obligations.PseudoInstructionWords
  decide

end Sys2Proof.Laws
end
